-- ==== Sys2Proof/Word.lean ====
section
/-! DEFINITION. The widths of the block: a 64-bit value, a 4-bit cell, sixteen ordered cells (00_scope.md sections 4 and 5.1).

Everything a test could show wrong (the codec, the shifts, the tables) stands under Machine/. -/

namespace Sys2Proof

/-- A `u64` of the spec: a block, a tweak, a key half, a round constant (00_scope.md section 5.1). -/
abbrev Word := BitVec 64

/-- A `u4` of the spec: one cell (00_scope.md section 5.1). -/
abbrev Cell := BitVec 4

/-- The index of a cell. -/
abbrev CellIndex := Fin 16

/-- `cells[16]` of the spec: sixteen cells indexed 0..15, row-major when seen as a 4×4 matrix (00_scope.md section 5.1).
A value inside one command, never part of the state. -/
abbrev Cells := CellIndex → Cell

/-- An entry of the matrix `M`: one of 0, 1, 2, with 0 meaning no contribution (R70, R76, R90). -/
abbrev RotAmount := Fin 3

/-- A reordering of the sixteen cells: the tables `t`, `t_inv`, `h`, `h_inv` (R70). -/
abbrev Perm16 := Vector CellIndex 16

end Sys2Proof
end

