-- ==== Sys2Proof/Syntax.lean ====
section
/-! DEFINITION. The four commands of the block (R46), with the operands their formats name (R47, R48). -/

namespace Sys2Proof

/-- One constructor per row of spec/opcode_table.json. -/
inductive Instr where
  /-- `ENC X, T, W0, K0` (format K, R47, R139). -/
  | enc (x t w0 k0 : Word)
  /-- `DEC X, T, W0, K0` (format K, R47, R140). -/
  | dec (x t w0 k0 : Word)
  /-- `SETROUNDS N` (format C, R48, R141); `n` holds the 32 bits of the `i32`. -/
  | setrounds (n : BitVec 32)
  /-- `SETSBOX N` (format C, R48, R142); `n` holds the 32 bits of the `i32`. -/
  | setsbox (n : BitVec 32)
  deriving DecidableEq, Repr

end Sys2Proof
end

