-- ==== Sys2Proof/Config.lean ====
section
/-! DEFINITION. The parameters of the block (00_scope.md section 4, R6) and the values the spec leaves free.

The free values are opaque constants: nothing can evaluate them, so a statement that mentions one holds for every value. -/

namespace Sys2Proof.Config

/-- Value of `ROUNDS` after reset (R6, R21). -/
def roundsReset : BitVec 3 := 5

/-- Value of `SBOX` after reset (R6, R21). -/
def sboxReset : BitVec 2 := 2

/-- Least legal value of `ROUNDS` (R6, R10). -/
def roundsMin : Int := 1

/-- Greatest legal value of `ROUNDS` (R6, R10). -/
def roundsMax : Int := 7

/-- Least legal value of `SBOX` (R6, R11). -/
def sboxMin : Int := 0

/-- Greatest legal value of `SBOX` (R6, R11). -/
def sboxMax : Int := 2

/-- DESIGN CHOICE, safe (log entry 6): what a substitution answers while `SBOX` holds 3, a value R11 says is never held and
for which the table space has no family (R31). -/
opaque sboxUnselected : Cell → Cell

/-- DESIGN CHOICE, safe (log entry 6): the same for the inverse substitution. -/
opaque sboxInvUnselected : Cell → Cell

/-- DESIGN CHOICE, safe (log entry 5): what the working registers hold before step S0 of a command, where R14 says they hold
no value. -/
opaque workBefore : Word

/-- The open parameter `LATENCY` of R6: the time a command takes, here any function of the command and of the two registers
(93_implementation_defined.md U2, U8). As in the spec, no definition of the model reads it (log entry 7). -/
opaque latency : Instr → BitVec 3 → BitVec 2 → Nat

end Sys2Proof.Config
end

