-- ==== Sys2Proof/WellFormed.lean ====
section
/-! DEFINITION. Which instructions are well formed: all of them.

R51: every `u64` is a legal `X`, `T`, `W0`, `K0` and every `i32` a legal `N`; the widths are in the types, so there is no
check and no ill-formed term. -/

namespace Sys2Proof

/-- Every operand value of every command is legal (R51). -/
def Instr.wellFormed : Instr → Bool
  | .enc _ _ _ _ => true
  | .dec _ _ _ _ => true
  | .setrounds _ => true
  | .setsbox _ => true

end Sys2Proof
end

