-- ==== Sys2Proof/Decode.lean ====
section
/-! DEFINITION. The command port as a record of fields (R45, R47, R48), its decoder, which is total and never refuses
(R51), the encoder, and the numbering of the ports' bits as one word. -/

namespace Sys2Proof

/-- What the host drives on the command port: the opcode and the operand ports of both formats (R45, R47, R48). -/
structure Ports where
  /-- `op[1:0]`. -/
  op : BitVec 2
  /-- The block `X`. -/
  x : Word
  /-- The tweak `T`. -/
  t : Word
  /-- The key half `W0`. -/
  w0 : Word
  /-- The key half `K0`. -/
  k0 : Word
  /-- The configuration operand `N`, an `i32`. -/
  n : BitVec 32
  deriving DecidableEq, Repr

/-- The opcode map (30_encoding.md section 4): `op[1]` selects the format, 0 for K and 1 for C; the ports the format does not
name are ignored (R47, R48, R51). -/
def decode (p : Ports) : Instr :=
  match p.op.getLsbD 1, p.op.getLsbD 0 with
  | false, false => .enc p.x p.t p.w0 p.k0
  | false, true => .dec p.x p.t p.w0 p.k0
  | true, false => .setrounds p.n
  | true, true => .setsbox p.n

/-- The ports of a command; DESIGN CHOICE, safe (log entry 4): the ports its format does not name carry 0, which the decoder
ignores (R51). -/
def encode : Instr → Ports
  | .enc x t w0 k0 => ⟨0b00, x, t, w0, k0, 0⟩
  | .dec x t w0 k0 => ⟨0b01, x, t, w0, k0, 0⟩
  | .setrounds n => ⟨0b10, 0, 0, 0, 0, n⟩
  | .setsbox n => ⟨0b11, 0, 0, 0, 0, n⟩

/-- The number of bits of the command port: `op`, four `u64` ports, one `i32` port. -/
abbrev portBits : Nat := 290

/-- The ports as one word. DESIGN CHOICE, safe (log entry 4): `op` is bits 1:0, as spec/opcode_table.json numbers it; then,
upwards, `X`, `T`, `W0`, `K0`, `N` in the order R47 and R48 list them. -/
def portsToBits (p : Ports) : BitVec portBits :=
  p.n ++ (p.k0 ++ (p.w0 ++ (p.t ++ (p.x ++ p.op))))

/-- The ports that a word of `portsToBits`' layout stands for. -/
def portsOfBits (b : BitVec portBits) : Ports where
  op := b.extractLsb' 0 2
  x := b.extractLsb' 2 64
  t := b.extractLsb' 66 64
  w0 := b.extractLsb' 130 64
  k0 := b.extractLsb' 194 64
  n := b.extractLsb' 258 32

/-- The decoder on a command given as one word. -/
def decodeBits (b : BitVec portBits) : Instr :=
  decode (portsOfBits b)

/-- The word of a command. -/
def encodeBits (i : Instr) : BitVec portBits :=
  portsToBits (encode i)

/-- The ports of a command whose low `nbits` bits are `w`, every bit above them 0. -/
def portsOfNat (nbits w : Nat) : Ports :=
  portsOfBits ((BitVec.ofNat nbits w).setWidth portBits)

/-- The command the decoder reads from a word given as the opcode table numbers its bits; never none (R51). -/
def decodeTableWord (nbits w : Nat) : Option Instr :=
  some (decode (portsOfNat nbits w))

end Sys2Proof
end

