-- ==== Sys2Proof/Machine/State.lean ====
section
/-! DEFINITION. The state of one instance of the block: the two configuration registers (R10, R11, R13) and the model's view
of its two ports (R45); the ways a step can stop, of which the spec has none (R160); the state after reset (R21). -/

namespace Sys2Proof.Machine

/-- What the host can do to the block (60_exceptions.md section 7). -/
inductive HostEvent where
  /-- The host presents a command on the command port (R45). -/
  | command (p : Ports)
  /-- The host applies reset, between commands (R180, R182). -/
  | reset
  deriving DecidableEq, Repr

/-- The whole state of an instance. `rounds` and `sbox` are all that persists (R12, R13); `input` and `response` are the
model's own fields for the command port and the response port of R45 (log entries 2 and 3). -/
structure State where
  /-- The register `ROUNDS[2:0]`, the round count in plain binary (R10). -/
  rounds : BitVec 3
  /-- The register `SBOX[1:0]`, the sbox family in plain binary (R11). -/
  sbox : BitVec 2
  /-- What the last event answered: `OUT` after an ENC or DEC, nothing after anything else (R50). No step reads it. -/
  response : Option Word
  /-- The events the host has issued and the block has not taken, oldest first (R38). -/
  input : List HostEvent
  deriving DecidableEq, Repr

/-- The faults of the block. There are none: the set of exception causes is empty (R160, R161), so the type has no
constructor; nothing raises one, and that is what the spec says, neither safe nor unsafe. -/
inductive Fault where
  deriving DecidableEq, Repr

/-- The refusals of the model. -/
inductive Refusal where
  /-- Raised only by an arm of `exec` whose instruction has no meaning yet, of which there is none; safe: the run stops. -/
  | notModelled (mnemonic : String)
  deriving DecidableEq, Repr

/-- The instance right after reset: `ROUNDS = 5`, `SBOX = 2` (R21, R180). DESIGN CHOICE (log entries 2 and 3): no event is
waiting and there is no response. -/
def State.reset : State where
  rounds := Config.roundsReset
  sbox := Config.sboxReset
  response := none
  input := []

end Sys2Proof.Machine
end

