-- ==== Sys2Proof/Machine/Ops.lean ====
section
/-! DEFINITION. The named operations on the state: register writes, responses, taking an event of the host, reset.

There is no operation for taking an exception or returning from one, since the block has neither (R160, R164, R165). -/

namespace Sys2Proof.Machine

/-- `ROUNDS <- v` (00_scope.md section 5.2). -/
def writeRounds (v : BitVec 3) (s : State) : State :=
  { s with rounds := v }

/-- `SBOX <- v` (00_scope.md section 5.2). -/
def writeSbox (v : BitVec 2) (s : State) : State :=
  { s with sbox := v }

/-- `OUT <- v`: the command answers `v` on the response port (R50). -/
def respond (v : Word) (s : State) : State :=
  { s with response := some v }

/-- The event has no data response; the block does not hold the response of an earlier command (R50). -/
def noResponse (s : State) : State :=
  { s with response := none }

/-- The effect of reset: the registers take their reset values, and that is the whole effect (R21, R180). The events the host
issued after it stay. -/
def resetInstance (s : State) : State :=
  { noResponse s with rounds := Config.roundsReset, sbox := Config.sboxReset }

/-- The oldest event not taken yet, and the state once it is taken: one at a time, in the order issued (R38, R45). -/
def takeEvent (s : State) : Option (HostEvent × State) :=
  match s.input with
  | [] => none
  | e :: rest => some (e, { s with input := rest })

/-- Presents an event on the command port, before any other. -/
def presentEvent (e : HostEvent) (s : State) : State :=
  { s with input := e :: s.input }

end Sys2Proof.Machine
end

