-- ==== Sys2Proof/Machine/Tables.lean ====
section
/-! DEFINITION. The static tables and constants (41_static_tables.md). They are not state (R15).

The values are `[from general knowledge, not in source]` in the spec (R71), held there to the source's nine vectors; log
entry 1. The properties that R79 asks of these tables are the lemmas of Sys2Proof/Laws/Tables.lean. -/

namespace Sys2Proof.Machine

/-- `SBOXTAB` of R72: `SBOXTAB[s][v]` is the substitute of cell value `v` under family `s`. -/
def sboxTab : Vector (Vector Cell 16) 3 := #v[
  #v[0x0, 0xE, 0x2, 0xA, 0x9, 0xF, 0x8, 0xB, 0x6, 0x4, 0x3, 0x7, 0xD, 0xC, 0x1, 0x5],
  #v[0xA, 0xD, 0xE, 0x6, 0xF, 0x7, 0x3, 0x5, 0x9, 0x8, 0x0, 0xC, 0xB, 0x1, 0x2, 0x4],
  #v[0xB, 0x6, 0x8, 0xF, 0xC, 0x0, 0x9, 0xE, 0x3, 0x7, 0x4, 0x5, 0xD, 0x2, 0x1, 0xA]]

/-- `SBOXINV` of R73: each family's inverse table (R79 (a)). -/
def sboxInv : Vector (Vector Cell 16) 3 := #v[
  #v[0x0, 0xE, 0x2, 0xA, 0x9, 0xF, 0x8, 0xB, 0x6, 0x4, 0x3, 0x7, 0xD, 0xC, 0x1, 0x5],
  #v[0xA, 0xD, 0xE, 0x6, 0xF, 0x7, 0x3, 0x5, 0x9, 0x8, 0x0, 0xC, 0xB, 0x1, 0x2, 0x4],
  #v[0x5, 0xE, 0xD, 0x8, 0xA, 0xB, 0x1, 0x9, 0x2, 0x6, 0xF, 0x0, 0x4, 0xC, 0x7, 0x3]]

/-- The shuffle permutation `t` (R74, R79 (c)). -/
def shufflePerm : Perm16 := #v[0, 11, 6, 13, 10, 1, 12, 7, 5, 14, 3, 8, 15, 4, 9, 2]

/-- Its inverse `t_inv` (R74, R79 (c)). -/
def shufflePermInv : Perm16 := #v[0, 5, 15, 10, 13, 8, 2, 7, 11, 14, 4, 1, 6, 3, 9, 12]

/-- The key-schedule permutation `h` (R75, R79 (c)). -/
def tweakPerm : Perm16 := #v[6, 5, 14, 15, 0, 1, 2, 3, 7, 12, 13, 4, 8, 9, 10, 11]

/-- Its inverse `h_inv` (R75, R79 (c)). -/
def tweakPermInv : Perm16 := #v[4, 5, 6, 7, 11, 1, 0, 8, 12, 13, 14, 15, 9, 10, 2, 3]

/-- The mixing matrix `M`, row-major (R76), its entries in `{0, 1, 2}` by their type (R79 (d)). -/
def mixMatrix : Vector RotAmount 16 := #v[
  0, 1, 2, 1,
  1, 0, 1, 2,
  2, 1, 0, 1,
  1, 2, 1, 0]

/-- The round constants `c[0..7]` (R77); `c[7]` is never read (R80). -/
def roundConst : Vector Word 8 := #v[
  0x0000000000000000, 0x13198A2E03707344, 0xA4093822299F31D0, 0x082EFA98EC4E6C89,
  0x452821E638D01377, 0xBE5466CF34E90C6C, 0x3F84D5B5B5470917, 0x9216D5D98979FB1B]

/-- The constant `alpha` (R78), odd (R79 (e)). -/
def alpha : Word := 0xC0AC29B7C97C50DD

/-- The positions to which the key scheduler applies the LFSR: `{0, 1, 3, 4, 8, 11, 13}` (R121). -/
def lfsrPositions : List CellIndex := [0, 1, 3, 4, 8, 11, 13]

/-- The lookup `SBOXTAB[s][v]` (R72, R149). A register that held 3 would select no family; it never does (R11), and the answer
is then the free value of log entry 6. -/
def sboxLookup (s : BitVec 2) (v : Cell) : Cell :=
  if h : s.toNat < 3 then sboxTab[s.toNat][v.toFin] else Config.sboxUnselected v

/-- The lookup `SBOXINV[s][v]` (R73, R149); for a register that held 3, see `sboxLookup`. -/
def sboxInvLookup (s : BitVec 2) (v : Cell) : Cell :=
  if h : s.toNat < 3 then sboxInv[s.toNat][v.toFin] else Config.sboxInvUnselected v

/-- `c[i]` for a round index `i`, which is at most 6 (R31, R80). -/
def roundConstant (i : Fin 7) : Word :=
  roundConst[i.val]

end Sys2Proof.Machine
end

