-- ==== Sys2Proof/Machine/Algebra.lean ====
section
/-! DEFINITION. The cell algebra (42_cell_algebra.md): rotateCombine, mixColumns, LFSR, LFSR_inv, and the gather by a table
that 43_round_function.md and 44_key_scheduler.md share. -/

namespace Sys2Proof.Machine

/-- `rotateCombine` (R90): amount 0 contributes nothing; otherwise a rotation left within 4 bits. -/
def rotateCombine (a : Cell) (amount : RotAmount) : Cell :=
  if amount = 0 then 0 else (a <<< amount.val) ||| (a >>> (4 - amount.val))

/-- The index `4*x+y` of row `x`, column `y` (00_scope.md section 5.1). -/
def cellAt (x y : Fin 4) : CellIndex :=
  ⟨4 * x.val + y.val, by omega⟩

/-- The row of an index. -/
def rowOf (i : CellIndex) : Fin 4 :=
  ⟨i.val / 4, by omega⟩

/-- The column of an index. -/
def colOf (i : CellIndex) : Fin 4 :=
  ⟨i.val % 4, by omega⟩

/-- The accumulated value of output position `(x, y)` of `mixColumns` (R91). -/
def mixCell (cells : Cells) (matrix : Vector RotAmount 16) (x y : Fin 4) : Cell :=
  (List.finRange 4).foldl
    (fun (acc : Cell) (j : Fin 4) => acc ^^^ rotateCombine (cells (cellAt j y)) matrix[cellAt x j]) 0

/-- `mixColumns` (R91): every output cell from the input cells, the cell of `(x, y)` at index `4*x+y`. -/
def mixColumns (cells : Cells) (matrix : Vector RotAmount 16) : Cells :=
  fun i => mixCell cells matrix (rowOf i) (colOf i)

/-- `LFSR` (R94): the bits `(b0 ^ b1) b3 b2 b1`. -/
def lfsr (x : Cell) : Cell :=
  (BitVec.ofBool (x.getLsbD 0 ^^ x.getLsbD 1)).setWidth 4 <<< 3
    ||| (BitVec.ofBool (x.getLsbD 3)).setWidth 4 <<< 2
    ||| (BitVec.ofBool (x.getLsbD 2)).setWidth 4 <<< 1
    ||| (BitVec.ofBool (x.getLsbD 1)).setWidth 4

/-- `LFSR_inv` (R95): the bits `b2 b1 b0 (b0 ^ b3)`. -/
def lfsrInv (x : Cell) : Cell :=
  (BitVec.ofBool (x.getLsbD 2)).setWidth 4 <<< 3
    ||| (BitVec.ofBool (x.getLsbD 1)).setWidth 4 <<< 2
    ||| (BitVec.ofBool (x.getLsbD 0)).setWidth 4 <<< 1
    ||| (BitVec.ofBool (x.getLsbD 0 ^^ x.getLsbD 3)).setWidth 4

/-- The gather by a table: `out[i] = cells table[i]` (R107, R120, 92_eei_decisions.md D7). -/
def gather (table : Perm16) (cells : Cells) : Cells :=
  fun i => cells table[i]

/-- A function applied to the cells at the positions of a list, the others unchanged (R121, R122). -/
def mapAt (positions : List CellIndex) (f : Cell → Cell) (cells : Cells) : Cells :=
  fun i => if positions.contains i then f (cells i) else cells i

/-- The exclusive-or of two blocks seen as cells, cell by cell (R64, R130). -/
def xorCells (a b : Cells) : Cells :=
  fun i => a i ^^^ b i

end Sys2Proof.Machine
end

