-- ==== Sys2Proof/Machine/Codec.lean ====
section
/-! DEFINITION. The cell codec (40_cell_codec.md). Cell 0 is the most significant hexadecimal digit (R60; the source's
sentence on the bytes is corrected there by 90_conflicts.md C1, log entry 8). -/

namespace Sys2Proof.Machine

/-- `cell(B, j) = B[63-4j : 60-4j]` (R60). -/
def cellOf (b : Word) (j : CellIndex) : Cell :=
  b.extractLsb' (60 - 4 * j.val) 4

/-- `textToCells` (R61). -/
def textToCells (b : Word) : Cells :=
  cellOf b

/-- `cellsToText` (R62): the cells, each widened and shifted to its place, joined by or. -/
def cellsToText (cs : Cells) : Word :=
  (List.finRange 16).foldl
    (fun (b : Word) (j : CellIndex) => b ||| ((cs j).setWidth 64 <<< (60 - 4 * j.val))) 0

end Sys2Proof.Machine
end

