-- ==== Sys2Proof/Machine/Round.lean ====
section
/-! DEFINITION. The round function (43_round_function.md): substitute, shuffle, forward, backward.

`sbox` is the value of the register `SBOX` as sampled at step S0 (R35, R105). -/

namespace Sys2Proof.Machine

/-- `substitute` (R105). -/
def substitute (sbox : BitVec 2) (cells : Cells) : Cells :=
  fun j => sboxLookup sbox (cells j)

/-- `substitute_inv` (R106). -/
def substituteInv (sbox : BitVec 2) (cells : Cells) : Cells :=
  fun j => sboxInvLookup sbox (cells j)

/-- `shuffle` (R107). -/
def shuffle (cells : Cells) : Cells :=
  gather shufflePerm cells

/-- `shuffle_inv` (R107). -/
def shuffleInv (cells : Cells) : Cells :=
  gather shufflePermInv cells

/-- `forward` (R109): XOR the round key, diffuse unless `r` is 0, substitute. -/
def forward (sbox : BitVec 2) (block roundKey : Word) (r : Nat) : Word :=
  let keyed := textToCells (block ^^^ roundKey)
  let diffused := if r ≠ 0 then mixColumns (shuffle keyed) mixMatrix else keyed
  cellsToText (substitute sbox diffused)

/-- `backward` (R110): inverse-substitute, undo the diffusion unless `r` is 0, XOR the round key. The inverse of `mixColumns` is
`mixColumns` with the same matrix (R92). -/
def backward (sbox : BitVec 2) (block roundKey : Word) (r : Nat) : Word :=
  let plain := substituteInv sbox (textToCells block)
  let undiffused := if r ≠ 0 then shuffleInv (mixColumns plain mixMatrix) else plain
  cellsToText undiffused ^^^ roundKey

end Sys2Proof.Machine
end

