-- ==== Sys2Proof/Machine/Operands.lean ====
section
/-! DEFINITION. What a command makes of its operands: the signed reading and the clamping of `N` (R49, R141, R142), the key
derivations (R135, R136), the key roles (R137), and the snapshot taken at step S0 (R35). -/

namespace Sys2Proof.Machine

/-- The operand `N` of format C read as the mathematical integer `sext(N[31:0])` (R49). -/
def signedOperand (n : BitVec 32) : Int :=
  n.toInt

/-- The clamping of R141: below 1 to 1, above 7 to 7. The upper clamp is the spec's decision D4 (log entry 9). -/
def clampRounds (n : Int) : BitVec 3 :=
  if n < Config.roundsMin then BitVec.ofInt 3 Config.roundsMin
  else if n > Config.roundsMax then BitVec.ofInt 3 Config.roundsMax
  else BitVec.ofInt 3 n

/-- The clamping of R142: below 0 to 0, above 2 to 2. The lower clamp is the spec's decision D4 (log entry 9). -/
def clampSbox (n : Int) : BitVec 2 :=
  if n < Config.sboxMin then BitVec.ofInt 2 Config.sboxMin
  else if n > Config.sboxMax then BitVec.ofInt 2 Config.sboxMax
  else BitVec.ofInt 2 n

/-- Rotation of a `u64` right by one place, the source's rotateRight1 (00_scope.md section 5.1). -/
def rotateRight1 (v : Word) : Word :=
  (v >>> 1) ||| (v <<< 63)

/-- `ortho` (R135): the second whitening key. -/
def ortho (w : Word) : Word :=
  rotateRight1 w ^^^ (w >>> 63)

/-- `mixKey` (R136): the reflection key of DEC. -/
def mixKey (k : Word) : Word :=
  cellsToText (mixColumns (textToCells k) mixMatrix)

/-- The two cipher commands, as the argument `isEncrypt` of R137. -/
inductive Direction where
  /-- ENC. -/
  | encrypt
  /-- DEC. -/
  | decrypt
  deriving DecidableEq, Repr

/-- The four key roles (R137). -/
structure Keys where
  /-- Outer key A: input whitening and centre backward round. -/
  oa : Word
  /-- Outer key B: centre forward round and output whitening. -/
  ob : Word
  /-- Reflection key. -/
  rk : Word
  /-- Per-round key. -/
  pk : Word
  deriving DecidableEq, Repr

/-- `keysForDirection` (R137). -/
def keysForDirection (w0 k0 : Word) : Direction → Keys
  | .encrypt => ⟨w0, ortho w0, k0, k0⟩
  | .decrypt => ⟨ortho w0, w0, mixKey k0, k0 ^^^ alpha⟩

/-- Everything a cipher command takes at step S0: the direction, its operands, and the two registers (R35, R138). -/
structure Request where
  /-- ENC or DEC. -/
  dir : Direction
  /-- The block `X`. -/
  x : Word
  /-- The tweak `T`. -/
  t : Word
  /-- The key half `W0`. -/
  w0 : Word
  /-- The key half `K0`. -/
  k0 : Word
  /-- `ROUNDS` as sampled. -/
  rounds : BitVec 3
  /-- `SBOX` as sampled. -/
  sbox : BitVec 2
  deriving DecidableEq, Repr

/-- The snapshot of a cipher command's operands and of the registers (R35). -/
def snapshot (dir : Direction) (x t w0 k0 : Word) (s : State) : Request where
  dir := dir
  x := x
  t := t
  w0 := w0
  k0 := k0
  rounds := s.rounds
  sbox := s.sbox

end Sys2Proof.Machine
end

