-- ==== Sys2Proof/Machine/Reflect.lean ====
section
/-! DEFINITION. The reflection core (45_reflection_core.md). -/

namespace Sys2Proof.Machine

/-- `pseudoReflect` (R130): shuffle, mixColumns, XOR the key cell by cell, shuffle_inv. -/
def pseudoReflect (block key : Word) : Word :=
  let mixed := mixColumns (shuffle (textToCells block)) mixMatrix
  cellsToText (shuffleInv (xorCells mixed (textToCells key)))

end Sys2Proof.Machine
end

