-- ==== Sys2Proof/Machine/Schedule.lean ====
section
/-! DEFINITION. The key scheduler (44_key_scheduler.md): what evolves is the tweak. -/

namespace Sys2Proof.Machine

/-- `forwardUpdateKey` (R121): gather by `h`, then LFSR at the seven positions. -/
def forwardUpdateKey (tweak : Word) : Word :=
  cellsToText (mapAt lfsrPositions lfsr (gather tweakPerm (textToCells tweak)))

/-- `backwardUpdateKey` (R122): LFSR_inv at the seven positions, then gather by `h_inv`. -/
def backwardUpdateKey (tweak : Word) : Word :=
  cellsToText (gather tweakPermInv (mapAt lfsrPositions lfsrInv (textToCells tweak)))

end Sys2Proof.Machine
end

