-- ==== Sys2Proof/Machine/Sequencer.lean ====
section
/-! DEFINITION. The round sequencer (46_cipher_controller.md sections 2 and 4): its phases, its working registers (R14), what
each phase does (R138), and the whole sequence as one pure function, which R14 allows. -/

namespace Sys2Proof.Machine

/-- The position `PHASE` of the sequencer (R14, R143). A round index is at most 6 (R31). -/
inductive Phase where
  /-- Sample and derive the key roles. -/
  | s0
  /-- Input whitening. -/
  | s1
  /-- Forward round `i`. -/
  | s2 (i : Fin 7)
  /-- Centre forward round. -/
  | s3
  /-- Reflection. -/
  | s4
  /-- Centre backward round. -/
  | s5
  /-- Backward round `i`. -/
  | s6 (i : Fin 7)
  /-- Output whitening. -/
  | s7
  deriving DecidableEq, Repr

/-- The working registers of one command, and its answer (R14, R50). -/
structure Work where
  /-- `IS`, the block being transformed. -/
  is : Word
  /-- `TK`, the running tweak. -/
  tk : Word
  /-- `OA`, `OB`, `RK`, `PK`. -/
  keys : Keys
  /-- `OUT`, the response. -/
  out : Word
  deriving DecidableEq, Repr

/-- The working registers before step S0, where they hold no value (R14): the free value of log entry 5. -/
def unsetWork : Work where
  is := Config.workBefore
  tk := Config.workBefore
  keys := ⟨Config.workBefore, Config.workBefore, Config.workBefore, Config.workBefore⟩
  out := Config.workBefore

/-- The round indices `0 .. n-1`, in order (R138 steps S2.i and S6.i). -/
def roundIndices (n : BitVec 3) : List (Fin 7) :=
  [0, 1, 2, 3, 4, 5, 6].take n.toNat

/-- The phases of a command with `ROUNDS = n`, in order (R143). -/
def phases (n : BitVec 3) : List Phase :=
  [.s0, .s1] ++ (roundIndices n).map .s2 ++ [.s3, .s4, .s5] ++ (roundIndices n).reverse.map .s6 ++ [.s7]

/-- What one phase does to the working registers (R138). -/
def runPhase (q : Request) (w : Work) : Phase → Work
  | .s0 => { w with keys := keysForDirection q.w0 q.k0 q.dir }
  | .s1 => { w with is := q.x ^^^ w.keys.oa, tk := q.t }
  | .s2 i => { w with
      is := forward q.sbox w.is (w.keys.pk ^^^ w.tk ^^^ roundConstant i) i.val
      tk := forwardUpdateKey w.tk }
  | .s3 => { w with is := forward q.sbox w.is (w.keys.ob ^^^ w.tk) 1 }
  | .s4 => { w with is := pseudoReflect w.is w.keys.rk }
  | .s5 => { w with is := backward q.sbox w.is (w.keys.oa ^^^ w.tk) 1 }
  | .s6 i =>
      let tk := backwardUpdateKey w.tk
      { w with is := backward q.sbox w.is (w.keys.pk ^^^ tk ^^^ roundConstant i ^^^ alpha) i.val, tk := tk }
  | .s7 => { w with out := w.is ^^^ w.keys.ob }

/-- The phases of a list, run in order on given working registers. -/
def runPhases (q : Request) (ps : List Phase) (w : Work) : Work :=
  ps.foldl (runPhase q) w

/-- `sequence` (R138): the response of the cipher command `q`. -/
def sequence (q : Request) : Word :=
  (runPhases q (phases q.rounds) unsetWork).out

end Sys2Proof.Machine
end

