-- ==== Sys2Proof/Machine/Cipher.lean ====
section
/-! DEFINITION. The cipher commands (46_cipher_controller.md section 3). -/

namespace Sys2Proof.Machine

/-- ENC (R139): respond with the sequence under the encrypt key roles; no register is written. -/
def execEnc (x t w0 k0 : Word) (s : State) : Host.Outcome State Fault Refusal :=
  .next (respond (sequence (snapshot .encrypt x t w0 k0 s)) s)

/-- DEC (R140): respond with the sequence under the decrypt key roles; no register is written. -/
def execDec (x t w0 k0 : Word) (s : State) : Host.Outcome State Fault Refusal :=
  .next (respond (sequence (snapshot .decrypt x t w0 k0 s)) s)

end Sys2Proof.Machine
end

