-- ==== Sys2Proof/Machine/Configure.lean ====
section
/-! DEFINITION. The configuration commands (46_cipher_controller.md section 3). -/

namespace Sys2Proof.Machine

/-- SETROUNDS (R141): `ROUNDS` takes the clamped operand; no data response (R50). -/
def execSetrounds (n : BitVec 32) (s : State) : Host.Outcome State Fault Refusal :=
  .next (noResponse (writeRounds (clampRounds (signedOperand n)) s))

/-- SETSBOX (R142): `SBOX` takes the clamped operand; no data response (R50). -/
def execSetsbox (n : BitVec 32) (s : State) : Host.Outcome State Fault Refusal :=
  .next (noResponse (writeSbox (clampSbox (signedOperand n)) s))

end Sys2Proof.Machine
end

