-- ==== Sys2Proof/Machine/Dispatch.lean ====
section
/-! DEFINITION. One arm per command, each a call of its meaning. -/

namespace Sys2Proof.Machine

/-- The effect of one command (R45): from a state and a command to a state with the response. -/
def exec (i : Instr) (s : State) : Host.Outcome State Fault Refusal :=
  match i with
  | .enc x t w0 k0 => Sys2Proof.Machine.execEnc x t w0 k0 s
  | .dec x t w0 k0 => Sys2Proof.Machine.execDec x t w0 k0 s
  | .setrounds n => Sys2Proof.Machine.execSetrounds n s
  | .setsbox n => Sys2Proof.Machine.execSetsbox n s

end Sys2Proof.Machine
end

