-- ==== Sys2Proof/Machine/Step.lean ====
section
/-! DEFINITION. One step: the block takes the oldest event of the host and performs it completely (R38, R45). -/

namespace Sys2Proof.Machine

/-- One step. A command is decoded and executed; reset is applied between commands (R182); with no event presented the
registers keep their values (R12) and there is no response (DESIGN CHOICE, log entry 11). -/
def step (s : State) : Host.Outcome State Fault Refusal :=
  match takeEvent s with
  | none => .next (noResponse s)
  | some (.command p, s') => exec (decode p) s'
  | some (.reset, s') => .next (resetInstance s')

/-- The state with one command presented on the command port, so that the very next step runs it (log entry 4). -/
def State.withFetchWord (s : State) (nbits w : Nat) : State :=
  presentEvent (.command (portsOfNat nbits w)) s

end Sys2Proof.Machine
end

