-- ==== Sys2Proof/Safety.lean ====
section
/-! DEFINITION. The terms the claims use: legal states, the answers of a run, the register values a list of events leaves, and
the source's numbered steps written as loops over a counter, beside which the sequencer's phases are held. -/

namespace Sys2Proof

open Machine

/-- The legal states: `ROUNDS` is 1 to 7 and `SBOX` is 0 to 2 (R10, R11). The input and the response are unrestricted. -/
abbrev Legal (s : State) : Prop :=
  1 ≤ s.rounds.toNat ∧ s.sbox.toNat ≤ 2

/-- The responses of the first `k` steps, oldest first, as long as the steps give a next state (R45, R50). -/
def answers : Nat → State → List (Option Word)
  | 0, _ => []
  | k + 1, s =>
    match step s with
    | .next t => t.response :: answers k t
    | .fault _ => []
    | .refused _ => []

/-- What an event writes into `ROUNDS`, if it writes it: SETROUNDS and reset do (R12, R141, R180). -/
def roundsWritten : HostEvent → Option (BitVec 3)
  | .reset => some Config.roundsReset
  | .command p =>
    match decode p with
    | .setrounds n => some (clampRounds (signedOperand n))
    | .enc _ _ _ _ => none
    | .dec _ _ _ _ => none
    | .setsbox _ => none

/-- What an event writes into `SBOX`, if it writes it: SETSBOX and reset do (R12, R142, R180). -/
def sboxWritten : HostEvent → Option (BitVec 2)
  | .reset => some Config.sboxReset
  | .command p =>
    match decode p with
    | .setsbox n => some (clampSbox (signedOperand n))
    | .enc _ _ _ _ => none
    | .dec _ _ _ _ => none
    | .setrounds _ => none

/-- The value of `ROUNDS` after the events: what the latest event that writes it wrote, or the value before (R38). -/
def latestRounds (events : List HostEvent) (before : BitVec 3) : BitVec 3 :=
  (events.reverse.findSome? roundsWritten).getD before

/-- The value of `SBOX` after the events: what the latest event that writes it wrote, or the value before (R38). -/
def latestSbox (events : List HostEvent) (before : BitVec 2) : BitVec 2 :=
  (events.reverse.findSome? sboxWritten).getD before

/-- Whether an instruction is a cipher command, format K (R47). -/
def isCipher : Instr → Bool
  | .enc _ _ _ _ => true
  | .dec _ _ _ _ => true
  | .setrounds _ => false
  | .setsbox _ => false

/-- The command, executed in the state, completes and answers `out` on the response port (R45, R50). -/
def Responds (i : Instr) (s : State) (out : Word) : Prop :=
  ∃ t, exec i s = .next t ∧ t.response = some out

/-- The successor of each step of the sequencer, which only `ROUNDS = n` influences (R143). -/
def nextPhase (n : BitVec 3) : Phase → Option Phase
  | .s0 => some .s1
  | .s1 => if n = 0 then some .s3 else some (.s2 0)
  | .s2 i => if h : i.val + 1 < n.toNat then some (.s2 ⟨i.val + 1, by omega⟩) else some .s3
  | .s3 => some .s4
  | .s4 => some .s5
  | .s5 => if n = 0 then some .s7 else some (.s6 ⟨n.toNat - 1, by omega⟩)
  | .s6 i => if i = 0 then some .s7 else some (.s6 ⟨i.val - 1, by omega⟩)
  | .s7 => none

namespace Source

/-- The plaintext of the source's vectors (95_test_vectors.md section 1.1). -/
def testBlock : Word := 0xFB623599DA6E8127

/-- The tweak of the source's vectors. -/
def testTweak : Word := 0x477D469DEC0B8762

/-- The key half `w0` of the source's vectors. -/
def testW0 : Word := 0x84BE85CE9804E94B

/-- The key half `k0` of the source's vectors. -/
def testK0 : Word := 0xEC2802D4E0A488E9

/-- The source's nine ciphertexts: `SBOX`, `ROUNDS`, ciphertext (95_test_vectors.md section 1.1). -/
def nineVectors : List (BitVec 2 × BitVec 3 × Word) := [
  (0, 5, 0x3EE99A6C82AF0C38), (0, 6, 0x9F5C41EC525603C9), (0, 7, 0xBCAF6C89DE930765),
  (1, 5, 0x544B0AB95BDA7C3A), (1, 6, 0xA512DD1E4E3EC582), (1, 7, 0xEDF67FF370A483F2),
  (2, 5, 0xC003B93999B33765), (2, 6, 0x270A787275C48D10), (2, 7, 0x5C06A7501B63B2FD)]

/-- `c[i]` for a loop counter (R77); the loops below form `i` at most 6. -/
def c (i : Nat) : Word :=
  if h : i < 8 then roundConst[i] else 0

/-- Step 3 of the source's `encrypt` for `i` in `0 .. n-1`: the pair of the state and the tweak (R138). -/
def forwardLoop (sbox : BitVec 2) (roundKey state tweak : Word) : Nat → Word × Word
  | 0 => (state, tweak)
  | i + 1 =>
    let before := forwardLoop sbox roundKey state tweak i
    (forward sbox before.1 (roundKey ^^^ before.2 ^^^ c i) i, forwardUpdateKey before.2)

/-- Step 7 of the source's `encrypt` for `i` from `n-1` down to `0` (R138). -/
def backwardLoop (sbox : BitVec 2) (roundKey : Word) : Nat → Word × Word → Word × Word
  | 0, after => after
  | i + 1, before =>
    let tweak := backwardUpdateKey before.2
    backwardLoop sbox roundKey i (backward sbox before.1 (roundKey ^^^ tweak ^^^ c i ^^^ alpha) i, tweak)

/-- Steps 2 to 8 of the source over the four key roles (R137, R138). -/
def eightSteps (rounds : BitVec 3) (sbox : BitVec 2) (block tweak outerKeyA outerKeyB reflectKey roundKey0 : Word) : Word :=
  let afterForward := forwardLoop sbox roundKey0 (block ^^^ outerKeyA) tweak rounds.toNat
  let centre := forward sbox afterForward.1 (outerKeyB ^^^ afterForward.2) 1
  let reflected := pseudoReflect centre reflectKey
  let unCentred := backward sbox reflected (outerKeyA ^^^ afterForward.2) 1
  (backwardLoop sbox roundKey0 rounds.toNat (unCentred, afterForward.2)).1 ^^^ outerKeyB

/-- The source's `encrypt`: the roles of `w0`, `w1`, `k0`, `k0` (R137, R138). -/
def encrypt (rounds : BitVec 3) (sbox : BitVec 2) (plaintext tweak w0 k0 : Word) : Word :=
  eightSteps rounds sbox plaintext tweak w0 (rotateRight1 w0 ^^^ (w0 >>> 63)) k0 k0

/-- The source's `decrypt`: raw `w0` after, its transform before, the mixed key in the reflection, `k0 XOR alpha` in the rounds
(R137). -/
def decrypt (rounds : BitVec 3) (sbox : BitVec 2) (ciphertext tweak w0 k0 : Word) : Word :=
  eightSteps rounds sbox ciphertext tweak (rotateRight1 w0 ^^^ (w0 >>> 63)) w0
    (cellsToText (mixColumns (textToCells k0) mixMatrix)) (k0 ^^^ alpha)

end Source

end Sys2Proof
end

