-- ==== Sys2Proof/Certificates/Slice0/Obligations.lean ====
section
/-! DEFINITION. The statements for the provers. Each docstring names the rule or the section of spec/ it states; where a clause
rests on a decision the spec marks as its own or on a log entry of the model, the docstring says so. -/

open Sys2Proof Sys2Proof.Machine

/-! ## Reset and the step -/

/-- 70_reset_and_hazards.md section 1, 10_state.md section 6. That the defaults are the reset values is the spec's own decision
D5; that the reset state has no event waiting and no response is the model's choice (log entries 2 and 3). Reset as an event gives
the same registers, whatever they held, and keeps the events issued after it; ENC straight after reset runs 5 rounds with family 2. -/
def Obligations.ResetLeavesTheDefaults : Prop :=
  State.reset = { rounds := 5, sbox := 2, response := none, input := [] } ∧
  (∀ (s : State) (rest : List HostEvent),
    step { s with input := .reset :: rest } = .next { rounds := 5, sbox := 2, response := none, input := rest }) ∧
  Responds (.enc Source.testBlock Source.testTweak Source.testW0 Source.testK0) State.reset 0xC003B93999B33765

/-- 10_state.md section 2: the registers hold legal values after reset. -/
def Obligations.ResetStateIsLegal : Prop :=
  Legal State.reset

/-- 10_state.md section 2: 0 is never held by `ROUNDS` and 3 is never held by `SBOX`, because the only writers clamp. Every step
from a legal state completes in a legal state; and SETROUNDS, SETSBOX and reset leave their register legal whatever it held. The
widths of the registers are the spec's own decision D5 and the two-sided clamping is its decision D4. -/
def Obligations.EveryStepKeepsTheStateLegal : Prop :=
  (∀ s : State, Legal s → ∃ t, step s = .next t ∧ Legal t) ∧
  (∀ (s : State) (n : BitVec 32), ∃ t, exec (.setrounds n) s = .next t ∧ 1 ≤ t.rounds.toNat) ∧
  (∀ (s : State) (n : BitVec 32), ∃ t, exec (.setsbox n) s = .next t ∧ t.sbox.toNat ≤ 2)

/-- 30_encoding.md section 1: the block performs the command the host presents. A step with a command on the port is the
execution of the decoded command once it is taken from the input, and a command placed by `withFetchWord` is the one the next step
runs. How commands reach the block is the model's choice (log entries 2 and 4). -/
def Obligations.StepRunsTheDecodedCommand : Prop :=
  (∀ (s : State) (p : Ports) (rest : List HostEvent),
    step { s with input := .command p :: rest } = exec (decode p) { s with input := rest }) ∧
  (∀ (s : State) (nbits w : Nat), step (s.withFetchWord nbits w) = exec (decode (portsOfNat nbits w)) s)

/-- The model's choice (log entry 11): with no event presented a step keeps both registers and there is no response. -/
def Obligations.StepWithoutAnEventKeepsTheRegisters : Prop :=
  ∀ s : State, step { s with input := [] } = .next { s with input := [], response := none }

/-- 60_exceptions.md section 1: there are no faults, and every command, every step and every run of steps completes, in every
state. -/
def Obligations.NothingEverStops : Prop :=
  (∀ _ : Fault, False) ∧
  (∀ (i : Instr) (s : State), ∃ t, exec i s = .next t) ∧
  (∀ (k : Nat) (s : State), ∃ t, Host.Core.run core k s = .next t)

/-! ## Decoding -/

/-- 30_encoding.md sections 2 and 4: decoding the word of a command gives the command, for every value of every operand. The
layout of the word is the model's choice (log entry 4). -/
def Obligations.DecodeOfEncodeIsTheCommand : Prop :=
  ∀ i : Instr, decodeBits (encodeBits i) = i

/-- 30_encoding.md section 6: every opcode is a command, and ports the format does not name are ignored, whatever they carry. The
decoded command keeps the opcode and every port its format names. -/
def Obligations.DecodeKeepsNamedPortsAndIgnoresTheOthers : Prop :=
  (∀ p : Ports, (encode (decode p)).op = p.op) ∧
  (∀ p : Ports, p.op.toNat < 2 →
    (encode (decode p)).x = p.x ∧ (encode (decode p)).t = p.t ∧ (encode (decode p)).w0 = p.w0 ∧
    (encode (decode p)).k0 = p.k0 ∧ ∀ n, decode { p with n := n } = decode p) ∧
  (∀ p : Ports, 2 ≤ p.op.toNat →
    (encode (decode p)).n = p.n ∧ ∀ x t w0 k0, decode { p with x := x, t := t, w0 := w0, k0 := k0 } = decode p)

/-- 30_encoding.md section 4 and the command encodings of 95_test_vectors.md section 5: the four opcodes, as the opcode table
numbers them and on the port. The opcode values are the spec's own decision D2. -/
def Obligations.OpcodesDecodeToTheirCommands : Prop :=
  decodeTableWord 8 0b00 = some (.enc 0 0 0 0) ∧
  decodeTableWord 8 0b01 = some (.dec 0 0 0 0) ∧
  decodeTableWord 8 0b10 = some (.setrounds 0) ∧
  decodeTableWord 8 0b11 = some (.setsbox 0) ∧
  decode ⟨0b00, 0xFB623599DA6E8127, 0x477D469DEC0B8762, 0x84BE85CE9804E94B, 0xEC2802D4E0A488E9, 0⟩
    = .enc 0xFB623599DA6E8127 0x477D469DEC0B8762 0x84BE85CE9804E94B 0xEC2802D4E0A488E9 ∧
  decode ⟨0b01, 0x9F5C41EC525603C9, 0x477D469DEC0B8762, 0x84BE85CE9804E94B, 0xEC2802D4E0A488E9, 0⟩
    = .dec 0x9F5C41EC525603C9 0x477D469DEC0B8762 0x84BE85CE9804E94B 0xEC2802D4E0A488E9 ∧
  decode ⟨0b10, 0, 0, 0, 0, 0x00000064⟩ = .setrounds 100 ∧
  decode ⟨0b11, 0, 0, 0, 0, 0xFFFFFFFD⟩ = .setsbox (BitVec.ofInt 32 (-3))

/-! ## Cell codec -/

/-- R63: the two functions of the codec are inverse bijections. -/
def Obligations.CodecIsAnExactBijection : Prop :=
  (∀ b : Word, cellsToText (textToCells b) = b) ∧
  (∀ cs : Cells, textToCells (cellsToText cs) = cs)

/-- 40_cell_codec.md section 1, as corrected by 90_conflicts.md C1: bit `k` of cell `j` is bit `60-4j+k` of the value, and byte
`i`, numbered from the least significant, holds cells `2*(7-i)` (its high nibble) and `2*(7-i)+1`. -/
def Obligations.CellZeroIsTheTopDigit : Prop :=
  (∀ (b : Word) (j : CellIndex) (k : Nat), k < 4 → (textToCells b j).getLsbD k = b.getLsbD (60 - 4 * j.val + k)) ∧
  (∀ (b : Word) (i : Fin 8),
    textToCells b ⟨2 * (7 - i.val), by omega⟩ ++ textToCells b ⟨2 * (7 - i.val) + 1, by omega⟩
      = b.extractLsb' (8 * i.val) 8) ∧
  cellsToText (fun j => BitVec.ofNat 4 j.val) = 0x0123456789ABCDEF

/-- 40_cell_codec.md section 4 (the spec marks the law as derived): exclusive-or commutes with the codec. -/
def Obligations.XorCommutesWithTheCodec : Prop :=
  (∀ (a b : Word) (j : CellIndex), textToCells (a ^^^ b) j = textToCells a j ^^^ textToCells b j) ∧
  (∀ a b : Cells, cellsToText (xorCells a b) = cellsToText a ^^^ cellsToText b)

/-! ## Tables -/

/-- 41_static_tables.md section 6, 42_cell_algebra.md section 2: the properties of the tables, whose values are from general
knowledge in the spec (log entry 1). The last clause, that `mixColumns` with `M` is its own inverse, is beyond the source: the spec
marks it as derived. That the entries of `M` are 0, 1 or 2 holds already by the type of the entries. -/
def Obligations.TablesHaveTheirProperties : Prop :=
  (∀ (s : Fin 3) (v : Fin 16), sboxInv[s][(sboxTab[s][v]).toFin] = BitVec.ofFin v) ∧
  (∀ (s : Fin 3) (v : Fin 16), sboxTab[s][(sboxInv[s][v]).toFin] = BitVec.ofFin v) ∧
  (∀ v : Fin 16, sboxTab[0][(sboxTab[0][v]).toFin] = BitVec.ofFin v ∧ sboxTab[1][(sboxTab[1][v]).toFin] = BitVec.ofFin v) ∧
  sboxTab[2][(sboxTab[2][(0 : Fin 16)]).toFin] = 5 ∧
  (∀ i : Fin 16, shufflePermInv[shufflePerm[i]] = i ∧ shufflePerm[shufflePermInv[i]] = i) ∧
  (∀ i : Fin 16, tweakPermInv[tweakPerm[i]] = i ∧ tweakPerm[tweakPermInv[i]] = i) ∧
  (∀ i : Fin 16, mixMatrix[i].val = 0 ∨ mixMatrix[i].val = 1 ∨ mixMatrix[i].val = 2) ∧
  alpha.getLsbD 0 = true ∧
  (∀ cs : Cells, mixColumns (mixColumns cs mixMatrix) mixMatrix = cs)

/-- 95_test_vectors.md section 2.2: on the block whose cell `j` holds `j`, each table-driven map prints its table. The table values
are from general knowledge in the spec (log entry 1). -/
def Obligations.TableDrivenMapsPrintTheTables : Prop :=
  cellsToText (substitute 0 (textToCells 0x0123456789ABCDEF)) = 0x0E2A9F8B6437DC15 ∧
  cellsToText (substitute 1 (textToCells 0x0123456789ABCDEF)) = 0xADE6F735980CB124 ∧
  cellsToText (substitute 2 (textToCells 0x0123456789ABCDEF)) = 0xB68FC09E3745D21A ∧
  cellsToText (substituteInv 0 (textToCells 0x0123456789ABCDEF)) = 0x0E2A9F8B6437DC15 ∧
  cellsToText (substituteInv 1 (textToCells 0x0123456789ABCDEF)) = 0xADE6F735980CB124 ∧
  cellsToText (substituteInv 2 (textToCells 0x0123456789ABCDEF)) = 0x5ED8AB1926F04C73 ∧
  cellsToText (shuffle (textToCells 0x0123456789ABCDEF)) = 0x0B6DA1C75E38F492 ∧
  cellsToText (shuffleInv (textToCells 0x0123456789ABCDEF)) = 0x05FAD827BE41639C ∧
  cellsToText (gather tweakPerm (textToCells 0x0123456789ABCDEF)) = 0x65EF01237CD489AB ∧
  cellsToText (gather tweakPermInv (textToCells 0x0123456789ABCDEF)) = 0x4567B108CDEF9A23

/-- 20_memory.md section 1, 41_static_tables.md section 6 (the spec marks both as derived): the round index of a phase is below
`ROUNDS`, and every index below `ROUNDS` occurs, so `c[7]` is never read. -/
def Obligations.RoundIndicesAreBelowRounds : Prop :=
  ∀ (n : BitVec 3) (i : Fin 7),
    (Phase.s2 i ∈ phases n ↔ i.val < n.toNat) ∧ (Phase.s6 i ∈ phases n ↔ i.val < n.toNat)

/-! ## Cell algebra -/

/-- R90: the formula with its mask, the bits, the corner cases and the full table of rotateCombine. -/
def Obligations.RotateCombineIsARotationOrNothing : Prop :=
  (∀ a : Cell, rotateCombine a 0 = 0) ∧
  (∀ (a : Cell) (n : RotAmount), n ≠ 0 →
    (rotateCombine a n).toNat = (a.toNat * 2 ^ n.val) % 16 + a.toNat / 2 ^ (4 - n.val)) ∧
  (∀ (a : Cell) (k : Fin 4), (rotateCombine a 1).getLsbD k.val = a.getLsbD ((k.val + 3) % 4) ∧
    (rotateCombine a 2).getLsbD k.val = a.getLsbD ((k.val + 2) % 4)) ∧
  (∀ n : RotAmount, rotateCombine 0 n = 0) ∧
  rotateCombine 0xF 1 = 0xF ∧ rotateCombine 0xF 2 = 0xF ∧ rotateCombine 0x9 1 = 0x3 ∧
  (List.finRange 16).map (fun a => (rotateCombine (BitVec.ofFin a) 0).toNat) = List.replicate 16 0 ∧
  (List.finRange 16).map (fun a => (rotateCombine (BitVec.ofFin a) 1).toNat) =
    [0x0, 0x2, 0x4, 0x6, 0x8, 0xA, 0xC, 0xE, 0x1, 0x3, 0x5, 0x7, 0x9, 0xB, 0xD, 0xF] ∧
  (List.finRange 16).map (fun a => (rotateCombine (BitVec.ofFin a) 2).toNat) =
    [0x0, 0x4, 0x8, 0xC, 0x1, 0x5, 0x9, 0xD, 0x2, 0x6, 0xA, 0xE, 0x3, 0x7, 0xB, 0xF]

/-- R91: each output cell of mixColumns accumulates the four cells of its column, for any matrix; the four equations for `M`; the
corner cases and the examples. -/
def Obligations.MixColumnsAccumulatesTheColumn : Prop :=
  (∀ (cs : Cells) (m : Vector RotAmount 16) (x y : Fin 4),
    mixColumns cs m (cellAt x y) =
      rotateCombine (cs (cellAt 0 y)) m[cellAt x 0] ^^^ rotateCombine (cs (cellAt 1 y)) m[cellAt x 1]
        ^^^ rotateCombine (cs (cellAt 2 y)) m[cellAt x 2] ^^^ rotateCombine (cs (cellAt 3 y)) m[cellAt x 3]) ∧
  (∀ (cs : Cells) (y : Fin 4),
    mixColumns cs mixMatrix (cellAt 0 y) = rotateCombine (cs (cellAt 1 y)) 1 ^^^ rotateCombine (cs (cellAt 2 y)) 2
      ^^^ rotateCombine (cs (cellAt 3 y)) 1 ∧
    mixColumns cs mixMatrix (cellAt 1 y) = rotateCombine (cs (cellAt 0 y)) 1 ^^^ rotateCombine (cs (cellAt 2 y)) 1
      ^^^ rotateCombine (cs (cellAt 3 y)) 2 ∧
    mixColumns cs mixMatrix (cellAt 2 y) = rotateCombine (cs (cellAt 0 y)) 2 ^^^ rotateCombine (cs (cellAt 1 y)) 1
      ^^^ rotateCombine (cs (cellAt 3 y)) 1 ∧
    mixColumns cs mixMatrix (cellAt 3 y) = rotateCombine (cs (cellAt 0 y)) 1 ^^^ rotateCombine (cs (cellAt 1 y)) 2
      ^^^ rotateCombine (cs (cellAt 2 y)) 1) ∧
  (∀ (cs : Cells) (x y : Fin 4), (∀ x' y' : Fin 4, (x', y') ≠ (x, y) → cs (cellAt x' y') = 0) →
    ∀ x' y' : Fin 4, (y' ≠ y ∨ x' = x → mixColumns cs mixMatrix (cellAt x' y') = 0) ∧
      (y' = y → x' ≠ x → cs (cellAt x y) ≠ 0 → mixColumns cs mixMatrix (cellAt x' y') ≠ 0)) ∧
  mixColumns (fun _ => 0x0) mixMatrix = (fun _ => 0x0) ∧
  mixColumns (fun _ => 0xF) mixMatrix = (fun _ => 0xF) ∧
  cellsToText (mixColumns (textToCells 0x1000000000000000) mixMatrix) = 0x0000200040002000 ∧
  cellsToText (mixColumns (textToCells 0x0123456789ABCDEF) mixMatrix) = 0x37BF26AE159D048C ∧
  cellsToText (mixColumns (textToCells 0x8421000000000000) mixMatrix) = 0x0000184221841842

/-- 42_cell_algebra.md section 2 (the spec marks the law as derived): rotateCombine and mixColumns are linear over exclusive-or, for
any matrix of rotate amounts. -/
def Obligations.MixColumnsIsLinear : Prop :=
  (∀ (a b : Cell) (n : RotAmount), rotateCombine (a ^^^ b) n = rotateCombine a n ^^^ rotateCombine b n) ∧
  (∀ (a b : Cells) (m : Vector RotAmount 16), mixColumns (xorCells a b) m = xorCells (mixColumns a m) (mixColumns b m))

/-- R96: LFSR and LFSR_inv are inverse bijections and linear. -/
def Obligations.LfsrAndItsInverseAreBijections : Prop :=
  (∀ x : Cell, lfsr (lfsrInv x) = x) ∧ (∀ x : Cell, lfsrInv (lfsr x) = x) ∧
  (∀ a b : Cell, lfsr (a ^^^ b) = lfsr a ^^^ lfsr b) ∧ (∀ a b : Cell, lfsrInv (a ^^^ b) = lfsrInv a ^^^ lfsrInv b)

/-- 42_cell_algebra.md section 3 (the definitions are from general knowledge in the spec, log entry 1): both tables, and the one
orbit of the fifteen values other than 0. -/
def Obligations.LfsrTablesEntryByEntry : Prop :=
  (List.finRange 16).map (fun x => (lfsr (BitVec.ofFin x)).toNat) =
    [0x0, 0x8, 0x9, 0x1, 0x2, 0xA, 0xB, 0x3, 0x4, 0xC, 0xD, 0x5, 0x6, 0xE, 0xF, 0x7] ∧
  (List.finRange 16).map (fun x => (lfsrInv (BitVec.ofFin x)).toNat) =
    [0x0, 0x3, 0x4, 0x7, 0x8, 0xB, 0xC, 0xF, 0x1, 0x2, 0x5, 0x6, 0x9, 0xA, 0xD, 0xE] ∧
  (List.range 16).map (fun k => (lfsr^[k] 1).toNat) =
    [0x1, 0x8, 0x4, 0x2, 0x9, 0xC, 0x6, 0xB, 0x5, 0xA, 0xD, 0xE, 0xF, 0x7, 0x3, 0x1]

/-! ## Round function -/

/-- R106: substitute_inv looks every cell up in the inverse table of the selected family and inverts substitute, for each of the
three families; for families 0 and 1 the two are the same function, for family 2 they differ. -/
def Obligations.SubstituteInvInvertsSubstitute : Prop :=
  (∀ (s : BitVec 2) (cs : Cells) (j : CellIndex) (h : s.toNat < 3),
    substituteInv s cs j = sboxInv[s.toNat][(cs j).toFin]) ∧
  (∀ (s : BitVec 2) (cs : Cells), s.toNat < 3 →
    substituteInv s (substitute s cs) = cs ∧ substitute s (substituteInv s cs) = cs) ∧
  (∀ cs : Cells, substituteInv 0 cs = substitute 0 cs ∧ substituteInv 1 cs = substitute 1 cs) ∧
  (∃ cs : Cells, substituteInv 2 cs ≠ substitute 2 cs) ∧
  cellsToText (substituteInv 2 (textToCells 0x0123456789ABCDEF)) = 0x5ED8AB1926F04C73

/-- R108: shuffle and shuffle_inv undo each other. -/
def Obligations.ShuffleInvInvertsShuffle : Prop :=
  (∀ cs : Cells, shuffleInv (shuffle cs) = cs) ∧ (∀ cs : Cells, shuffle (shuffleInv cs) = cs)

/-- 43_round_function.md section 3: with `r = 0` there is no diffusion, each output cell depending only on the same-numbered cells of
the block and of the key; every other `r` diffuses and behaves as 1; the examples. -/
def Obligations.ForwardDiffusesUnlessRoundZero : Prop :=
  (∀ (s : BitVec 2) (b k : Word) (j : CellIndex),
    textToCells (forward s b k 0) j = sboxLookup s (textToCells b j ^^^ textToCells k j)) ∧
  (∀ (s : BitVec 2) (b k : Word) (r : Nat) (j : CellIndex), r ≠ 0 →
    textToCells (forward s b k r) j =
      sboxLookup s (mixColumns (fun i => textToCells b shufflePerm[i] ^^^ textToCells k shufflePerm[i]) mixMatrix j)) ∧
  forward 2 0 0 0 = 0xBBBBBBBBBBBBBBBB ∧
  forward 2 0x0123456789ABCDEF 0 0 = 0xB68FC09E3745D21A ∧
  forward 2 0x0123456789ABCDEF 0 1 = 0xA69305D84CF2B17E ∧
  forward 0 0x0123456789ABCDEF 0xFFFFFFFFFFFFFFFF 0 = 0x51CD7346B8F9A2E0 ∧
  forward 1 0xFB623599DA6E8127 0xEC2802D4E0A488E9 3 = 0x8C445A5FAEF74D1E

/-- 43_round_function.md section 4: backward with `r = 0` is the inverse lookup and the key XOR, cell by cell; with any other `r` it
mixes first and un-shuffles second; the examples. -/
def Obligations.BackwardUndiffusesUnlessRoundZero : Prop :=
  (∀ (s : BitVec 2) (b k : Word) (j : CellIndex),
    textToCells (backward s b k 0) j = sboxInvLookup s (textToCells b j) ^^^ textToCells k j) ∧
  (∀ (s : BitVec 2) (b k : Word) (r : Nat) (j : CellIndex), r ≠ 0 →
    textToCells (backward s b k r) j =
      mixColumns (fun i => sboxInvLookup s (textToCells b i)) mixMatrix shufflePermInv[j] ^^^ textToCells k j) ∧
  backward 2 0x0123456789ABCDEF 0 0 = 0x5ED8AB1926F04C73 ∧
  backward 2 0x0123456789ABCDEF 0 1 = 0x527BF83D70F79554 ∧
  backward 2 0xA69305D84CF2B17E 0 1 = 0x0123456789ABCDEF ∧
  backward 0 0xFB623599DA6E8127 0xEC2802D4E0A488E9 1 = 0x4F567E3C910A0310

/-- R111: backward and forward with the same key and the same `r` undo each other, for every family and every `r`. -/
def Obligations.BackwardInvertsForward : Prop :=
  ∀ (s : BitVec 2) (x k : Word) (r : Nat), s.toNat < 3 →
    backward s (forward s x k r) k r = x ∧ forward s (backward s x k r) k r = x

/-! ## Key scheduler -/

/-- R121: every cell of forwardUpdateKey, its linearity, corner cases and examples. -/
def Obligations.ForwardUpdateKeyCellByCell : Prop :=
  (∀ (t : Word) (i : CellIndex), textToCells (forwardUpdateKey t) i =
    if i.val = 0 ∨ i.val = 1 ∨ i.val = 3 ∨ i.val = 4 ∨ i.val = 8 ∨ i.val = 11 ∨ i.val = 13
    then lfsr (textToCells t tweakPerm[i]) else textToCells t tweakPerm[i]) ∧
  (∀ a b : Word, forwardUpdateKey (a ^^^ b) = forwardUpdateKey a ^^^ forwardUpdateKey b) ∧
  (∀ n : Nat, forwardUpdateKey^[n] 0 = 0) ∧
  forwardUpdateKey 0xFFFFFFFFFFFFFFFF = 0x77F77FFF7FF7F7FF ∧
  forwardUpdateKey 0x0123456789ABCDEF = 0xBAE701233CD28CAB ∧
  forwardUpdateKey 0x477D469DEC0B8762 = 0xCB69277DE872E60B

/-- R122: every cell of backwardUpdateKey, that it inverts forwardUpdateKey, corner cases and examples. -/
def Obligations.BackwardUpdateKeyCellByCell : Prop :=
  (∀ (t : Word) (i p : CellIndex), tweakPermInv[i] = p → textToCells (backwardUpdateKey t) i =
    if p.val = 0 ∨ p.val = 1 ∨ p.val = 3 ∨ p.val = 4 ∨ p.val = 8 ∨ p.val = 11 ∨ p.val = 13
    then lfsrInv (textToCells t p) else textToCells t p) ∧
  (∀ t : Word, backwardUpdateKey (forwardUpdateKey t) = t) ∧
  backwardUpdateKey 0 = 0 ∧
  backwardUpdateKey 0xFFFFFFFFFFFFFFFF = 0xEFFFEEEEFEFFFFFE ∧
  backwardUpdateKey 0x0123456789ABCDEF = 0x85676301CAEF9A27 ∧
  backwardUpdateKey 0xBAE701233CD28CAB = 0x0123456789ABCDEF ∧
  backwardUpdateKey 0xCB69277DE872E60B = 0x477D469DEC0B8762

/-- R123: the two updates undo each other, and `n` of one undo `n` of the other; in a command, the tweak after backward round `i`
has been reached is the tweak forward round `i` used. -/
def Obligations.KeyUpdatesAreExactlyReversible : Prop :=
  (∀ t : Word, backwardUpdateKey (forwardUpdateKey t) = t) ∧
  (∀ t : Word, forwardUpdateKey (backwardUpdateKey t) = t) ∧
  (∀ (n : Nat) (t : Word), backwardUpdateKey^[n] (forwardUpdateKey^[n] t) = t) ∧
  (∀ (q : Request) (w : Work) (i : Fin 7), i.val < q.rounds.toNat →
    (runPhases q ((phases q.rounds).takeWhile (· ≠ .s6 i) ++ [.s6 i]) w).tk
      = (runPhases q ((phases q.rounds).takeWhile (· ≠ .s2 i)) w).tk)

/-- 44_key_scheduler.md section 4, 46_cipher_controller.md section 2: with `T_n` the tweak after `n` forward updates, forward round
`i` and backward round `i` use `T_i`, the two centre rounds use `T_ROUNDS`, and `TK` ends as the tweak operand; the chain of the
source's tweak. -/
def Obligations.TweakSequenceDependsOnTheTweakAlone : Prop :=
  (∀ (q : Request) (w : Work) (i : Fin 7), i.val < q.rounds.toNat →
    (runPhases q ((phases q.rounds).takeWhile (· ≠ .s2 i)) w).tk = forwardUpdateKey^[i.val] q.t ∧
    (runPhases q ((phases q.rounds).takeWhile (· ≠ .s6 i) ++ [.s6 i]) w).tk = forwardUpdateKey^[i.val] q.t) ∧
  (∀ (q : Request) (w : Work),
    (runPhases q ((phases q.rounds).takeWhile (· ≠ .s3)) w).tk = forwardUpdateKey^[q.rounds.toNat] q.t ∧
    (runPhases q ((phases q.rounds).takeWhile (· ≠ .s5)) w).tk = forwardUpdateKey^[q.rounds.toNat] q.t ∧
    (runPhases q (phases q.rounds) w).tk = q.t) ∧
  (List.range 8).map (fun n => forwardUpdateKey^[n] Source.testTweak) =
    [0x477D469DEC0B8762, 0xCB69277DE872E60B, 0x33056B69EE69E472, 0xB5791305CE4BEF69,
     0x016C5579AEF8CF4B, 0x3A45016CCCFAAFF8, 0xB8F41A456AF0C6FA, 0x2DFD58F4AC686DF0]

/-! ## Reflection core -/

/-- R130: pseudoReflect in terms of its cells: key cell `i` meets mixed cell `i` before the un-shuffling; the key is the role `RK`,
`K0` itself for ENC and the mixed `K0` for DEC; the corner cases and the examples. -/
def Obligations.PseudoReflectKeysTheMixedCells : Prop :=
  (∀ (x k : Word) (i : CellIndex), textToCells (pseudoReflect x k) i =
    mixColumns (fun j => textToCells x shufflePerm[j]) mixMatrix shufflePermInv[i] ^^^ textToCells k shufflePermInv[i]) ∧
  (∀ (q : Request) (w : Work), (runPhase q w .s4).is = pseudoReflect w.is w.keys.rk ∧
    (keysForDirection q.w0 q.k0 .encrypt).rk = q.k0 ∧ (keysForDirection q.w0 q.k0 .decrypt).rk = mixKey q.k0) ∧
  (∀ k : Word, pseudoReflect 0 k = cellsToText (shuffleInv (textToCells k))) ∧
  (∀ x : Word, pseudoReflect x 0 = cellsToText (shuffleInv (mixColumns (shuffle (textToCells x)) mixMatrix))) ∧
  pseudoReflect 0x0123456789ABCDEF 0 = 0xFB73EA62D951C840 ∧
  pseudoReflect 0x0123456789ABCDEF 0xEC2802D4E0A488E9 = 0x19E96446975D1048 ∧
  cellsToText (shuffle (textToCells 0x0123456789ABCDEF)) = 0x0B6DA1C75E38F492 ∧
  cellsToText (mixColumns (shuffle (textToCells 0x0123456789ABCDEF)) mixMatrix) = 0xF1685BC2A43D0E97 ∧
  pseudoReflect 0 0xEC2802D4E0A488E9 = 0xE29A8E244E0CD808

/-- 45_reflection_core.md (the spec marks the law as derived), 90_conflicts.md C2: the keyless reflection is an involution; with a
key, the inverse takes the mixed key; the general defect; and it is not an involution for every key. -/
def Obligations.PseudoReflectInverseTakesTheMixedKey : Prop :=
  (∀ x : Word, pseudoReflect (pseudoReflect x 0) 0 = x) ∧
  (∀ x k : Word, pseudoReflect (pseudoReflect x k) (mixKey k) = x) ∧
  (∀ x k : Word, pseudoReflect (pseudoReflect x k) k = x ^^^ cellsToText (shuffleInv (textToCells (k ^^^ mixKey k)))) ∧
  (∀ k : Word, (∀ x : Word, pseudoReflect (pseudoReflect x k) k = x) ↔ mixKey k = k) ∧
  pseudoReflect 0x19E96446975D1048 0xEC2802D4E0A488E9 = 0x4837D18C5182BF87 ∧
  pseudoReflect 0x19E96446975D1048 0xA5CA2BAFA6E90168 = 0x0123456789ABCDEF

/-! ## Key derivations -/

/-- R135: ortho by its formula and bit by bit; bijective and linear; the corner cases and the example. -/
def Obligations.OrthoBitByBit : Prop :=
  (∀ w : Word, ortho w = ((w >>> 1) ||| (w <<< 63)) ^^^ (w >>> 63)) ∧
  (∀ w : Word, (ortho w).getLsbD 63 = w.getLsbD 0 ∧ (ortho w).getLsbD 0 = (w.getLsbD 1 ^^ w.getLsbD 63) ∧
    ∀ i : Nat, 1 ≤ i → i ≤ 62 → (ortho w).getLsbD i = w.getLsbD (i + 1)) ∧
  Function.Bijective ortho ∧
  (∀ a b : Word, ortho (a ^^^ b) = ortho a ^^^ ortho b) ∧
  ([0, 1, 2, 0x8000000000000000, 0x8000000000000001, 0x8000000000000002, 0xFFFFFFFFFFFFFFFF,
      0x84BE85CE9804E94B].map ortho =
    [0, 0x8000000000000000, 1, 0x4000000000000001, 0xC000000000000001, 0x4000000000000000, 0xFFFFFFFFFFFFFFFE,
      0xC25F42E74C0274A4])

/-- R136: mixKey is mixColumns on the cells of the key, with no shuffle before it; it undoes itself; the corner cases and the
examples. -/
def Obligations.MixKeyUndoesItself : Prop :=
  (∀ (k : Word) (i : CellIndex), textToCells (mixKey k) i = mixColumns (textToCells k) mixMatrix i) ∧
  (∀ k : Word, mixKey (mixKey k) = k) ∧
  mixKey 0 = 0 ∧ mixKey 0xFFFFFFFFFFFFFFFF = 0xFFFFFFFFFFFFFFFF ∧
  mixKey 1 = 0x0002000400020000 ∧ mixKey 0xEC2802D4E0A488E9 = 0xA5CA2BAFA6E90168

/-- 46_cipher_controller.md section 1: the key roles of both directions, and of the source's key. -/
def Obligations.KeyRolesOfBothDirections : Prop :=
  (∀ w0 k0 : Word, keysForDirection w0 k0 .encrypt = { oa := w0, ob := ortho w0, rk := k0, pk := k0 } ∧
    keysForDirection w0 k0 .decrypt = { oa := ortho w0, ob := w0, rk := mixKey k0, pk := k0 ^^^ alpha }) ∧
  keysForDirection Source.testW0 Source.testK0 .encrypt =
    ⟨0x84BE85CE9804E94B, 0xC25F42E74C0274A4, 0xEC2802D4E0A488E9, 0xEC2802D4E0A488E9⟩ ∧
  keysForDirection Source.testW0 Source.testK0 .decrypt =
    ⟨0xC25F42E74C0274A4, 0x84BE85CE9804E94B, 0xA5CA2BAFA6E90168, 0x2C842B6329D8D834⟩

/-! ## The round sequence -/

/-- 46_cipher_controller.md section 4 (the step names are the spec's own decision D19): the phases run from S0 to S7, each exactly
once, `2*ROUNDS + 6` of them, each followed by its successor, which only `ROUNDS` influences. -/
def Obligations.PhasesFollowTheirSuccessors : Prop :=
  ∀ n : BitVec 3,
    (phases n).length = 2 * n.toNat + 6 ∧ (phases n).Nodup ∧ (phases n)[0]? = some .s0 ∧
    (∀ k : Nat, (phases n)[k + 1]? = (phases n)[k]?.bind (nextPhase n))

/-- 46_cipher_controller.md section 2: the sequencer computes the source's eight steps, for every round count, family, operands and
key roles. -/
def Obligations.SequencerRunsTheEightSteps : Prop :=
  ∀ q : Request, sequence q =
    Source.eightSteps q.rounds q.sbox q.x q.t (keysForDirection q.w0 q.k0 q.dir).oa (keysForDirection q.w0 q.k0 q.dir).ob
      (keysForDirection q.w0 q.k0 q.dir).rk (keysForDirection q.w0 q.k0 q.dir).pk

/-- 10_state.md section 3: the working registers hold no value before a command; whatever they held (the free value of log entry 5),
the response is the same. -/
def Obligations.ResponseIgnoresOldWorkingRegisters : Prop :=
  ∀ (q : Request) (w w' : Work), (runPhases q (phases q.rounds) w).out = (runPhases q (phases q.rounds) w').out

/-! ## The commands -/

/-- R139: ENC completes in every state with the source's `encrypt` as response and writes no state; the all-zero corner case; one
round; a bijection in `X` for fixed tweak, key and legal configuration; the source's example. -/
def Obligations.EncRespondsAndWritesNoState : Prop :=
  (∀ (x t w0 k0 : Word) (s : State), exec (.enc x t w0 k0) s =
    .next { s with response := some (Source.encrypt s.rounds s.sbox x t w0 k0) }) ∧
  Responds (.enc 0 0 0 0) State.reset 0x76243B953592993D ∧
  phases 1 = [.s0, .s1, .s2 0, .s3, .s4, .s5, .s6 0, .s7] ∧
  (∀ (s : State) (t w0 k0 : Word), Legal s →
    Function.Bijective fun x => Source.encrypt s.rounds s.sbox x t w0 k0) ∧
  Responds (.enc 0xFB623599DA6E8127 0x477D469DEC0B8762 0x84BE85CE9804E94B 0xEC2802D4E0A488E9)
    { State.reset with rounds := 5, sbox := 2 } 0xC003B93999B33765

/-- R140: DEC completes in every state with the source's `decrypt` as response and writes no state; it inverts `encrypt` exactly, and
`encrypt` is onto; under another configuration it returns another value, with no error; the example. -/
def Obligations.DecRespondsAndInvertsEnc : Prop :=
  (∀ (x t w0 k0 : Word) (s : State), exec (.dec x t w0 k0) s =
    .next { s with response := some (Source.decrypt s.rounds s.sbox x t w0 k0) }) ∧
  (∀ (s : State) (x t w0 k0 : Word), Legal s →
    Source.decrypt s.rounds s.sbox (Source.encrypt s.rounds s.sbox x t w0 k0) t w0 k0 = x ∧
    Source.encrypt s.rounds s.sbox (Source.decrypt s.rounds s.sbox x t w0 k0) t w0 k0 = x) ∧
  Responds (.dec 0xC003B93999B33765 0x477D469DEC0B8762 0x84BE85CE9804E94B 0xEC2802D4E0A488E9)
    { State.reset with rounds := 7, sbox := 2 } 0x7214A224FF5C1F84 ∧
  Responds (.dec 0xC003B93999B33765 0x477D469DEC0B8762 0x84BE85CE9804E94B 0xEC2802D4E0A488E9)
    { State.reset with rounds := 5, sbox := 2 } 0xFB623599DA6E8127

/-- 46_cipher_controller.md section 3: SETROUNDS completes in every state, writes the clamped operand into `ROUNDS` and nothing else,
and has no response. That operands above 7 clamp to 7 is the spec's own decision D4 (log entry 9). -/
def Obligations.SetroundsClampsAndWritesRoundsOnly : Prop :=
  ∀ (n : BitVec 32) (s : State), ∃ t, exec (.setrounds n) s = .next t ∧
    (t.rounds.toNat : Int) = max 1 (min 7 n.toInt) ∧ t.sbox = s.sbox ∧ t.input = s.input ∧ t.response = none

/-- 46_cipher_controller.md section 3: SETSBOX completes in every state, writes the clamped operand into `SBOX` and nothing else, and
has no response. That operands below 0 clamp to 0 is the spec's own decision D4 (log entry 9). -/
def Obligations.SetsboxClampsAndWritesSboxOnly : Prop :=
  ∀ (n : BitVec 32) (s : State), ∃ t, exec (.setsbox n) s = .next t ∧
    (t.sbox.toNat : Int) = max 0 (min 2 n.toInt) ∧ t.rounds = s.rounds ∧ t.input = s.input ∧ t.response = none

/-- 10_state.md section 2: a register keeps its value until the next command that writes it, or reset: ENC and DEC write neither register, SETROUNDS
writes `ROUNDS` only and SETSBOX `SBOX` only; over a step, a register changes only by reset or by its own command. -/
def Obligations.RegistersChangeOnlyByTheirCommandOrReset : Prop :=
  (∀ (x t w0 k0 : Word) (s : State), ∃ u, exec (.enc x t w0 k0) s = .next u ∧
    u.rounds = s.rounds ∧ u.sbox = s.sbox ∧ u.input = s.input) ∧
  (∀ (x t w0 k0 : Word) (s : State), ∃ u, exec (.dec x t w0 k0) s = .next u ∧
    u.rounds = s.rounds ∧ u.sbox = s.sbox ∧ u.input = s.input) ∧
  (∀ (n : BitVec 32) (s : State), ∃ u, exec (.setrounds n) s = .next u ∧ u.sbox = s.sbox ∧ u.input = s.input) ∧
  (∀ (n : BitVec 32) (s : State), ∃ u, exec (.setsbox n) s = .next u ∧ u.rounds = s.rounds ∧ u.input = s.input) ∧
  (∀ s t : State, step s = .next t →
    (t.rounds ≠ s.rounds → ∃ e rest, s.input = e :: rest ∧
      (e = .reset ∨ ∃ p n, e = .command p ∧ decode p = .setrounds n)) ∧
    (t.sbox ≠ s.sbox → ∃ e rest, s.input = e :: rest ∧
      (e = .reset ∨ ∃ p n, e = .command p ∧ decode p = .setsbox n)))

/-- R36: repeating a command changes nothing further, neither a register nor the response; ENC and DEC change no register at all. -/
def Obligations.EveryCommandIsIdempotent : Prop :=
  (∀ (i : Instr) (s : State), ∃ t, exec i s = .next t ∧ exec i t = .next t) ∧
  (∀ (i : Instr) (s : State), isCipher i = true → ∃ t, exec i s = .next t ∧ t.rounds = s.rounds ∧ t.sbox = s.sbox)

/-! ## Laws of the commands -/

/-- R144: in every legal configuration DEC after ENC and ENC after DEC, with the same tweak and key, give the input back; it does not
hold if the configuration differs between the two. -/
def Obligations.DecAfterEncGivesThePlaintextBack : Prop :=
  (∀ (s : State) (x t w0 k0 : Word), Legal s →
    ∃ out u v, exec (.enc x t w0 k0) s = .next u ∧ u.response = some out ∧
      exec (.dec out t w0 k0) u = .next v ∧ v.response = some x) ∧
  (∀ (s : State) (x t w0 k0 : Word), Legal s →
    ∃ out u v, exec (.dec x t w0 k0) s = .next u ∧ u.response = some out ∧
      exec (.enc out t w0 k0) u = .next v ∧ v.response = some x) ∧
  (∃ (s : State) (x t w0 k0 out y : Word) (u v w : State), Legal s ∧
    exec (.enc x t w0 k0) s = .next u ∧ u.response = some out ∧
    exec (.setrounds 7) u = .next v ∧ exec (.dec out t w0 k0) v = .next w ∧ w.response = some y ∧ y ≠ x)

/-- R145: the response of ENC and of DEC is the same in any two states with the same `ROUNDS` and `SBOX`; and two runs on the same
events from states with the same registers give the same responses, whatever an earlier command answered. -/
def Obligations.ResponsesDependOnOperandsAndRegistersOnly : Prop :=
  (∀ (i : Instr) (s u : State), isCipher i = true → s.rounds = u.rounds → s.sbox = u.sbox →
    ∃ out, Responds i s out ∧ Responds i u out) ∧
  (∀ (k : Nat) (s u : State), s.rounds = u.rounds → s.sbox = u.sbox → s.input = u.input → answers k s = answers k u)

/-- 20_memory.md section 5 (the serial port and the snapshot are the spec's own decisions D1 and D6): after any events, taken in the
order issued, `ROUNDS` and `SBOX` hold what the latest event that writes them wrote; and an ENC issued after them uses those values. -/
def Obligations.CommandsUseTheLatestConfiguration : Prop :=
  ∀ (events : List HostEvent) (s : State),
    (∀ rest : List HostEvent, ∃ t, Host.Core.run core events.length { s with input := events ++ rest } = .next t ∧
      t.rounds = latestRounds events s.rounds ∧ t.sbox = latestSbox events s.sbox ∧ t.input = rest) ∧
    (∀ x t w0 k0 : Word, ∃ u,
      Host.Core.run core (events.length + 1) { s with input := events ++ [.command (encode (.enc x t w0 k0))] } = .next u ∧
      u.response = some (Source.encrypt (latestRounds events s.rounds) (latestSbox events s.sbox) x t w0 k0)) ∧
    (∀ x t w0 k0 : Word, ∃ u,
      Host.Core.run core (events.length + 1) { s with input := events ++ [.command (encode (.dec x t w0 k0))] } = .next u ∧
      u.response = some (Source.decrypt (latestRounds events s.rounds) (latestSbox events s.sbox) x t w0 k0))

/-- 20_memory.md section 5, 60_exceptions.md section 6: cipher commands do not affect each other, in any order: after one, the
other ends in the very state in which it ends alone. -/
def Obligations.CipherCommandsDoNotAffectEachOther : Prop :=
  ∀ (i j : Instr) (s : State), isCipher i = true → isCipher j = true →
    ∃ t u, exec i s = .next t ∧ exec j s = .next u ∧ exec j t = .next u ∧ exec i u = .next t

/-- 70_reset_and_hazards.md section 2: the order of SETROUNDS and SETSBOX between themselves does not matter. -/
def Obligations.ConfigurationOrderDoesNotMatter : Prop :=
  ∀ (n m : BitVec 32) (s : State), ∃ t u v,
    exec (.setrounds n) s = .next t ∧ exec (.setsbox m) t = .next v ∧
    exec (.setsbox m) s = .next u ∧ exec (.setrounds n) u = .next v

/-- 95_test_vectors.md section 1.1: the source's nine ciphertexts, in both directions. They hold the table values, which are from
general knowledge in the spec (log entry 1), to the source. -/
def Obligations.NineSourceVectorsInBothDirections : Prop :=
  ∀ c ∈ Source.nineVectors,
    Responds (.enc Source.testBlock Source.testTweak Source.testW0 Source.testK0)
      { State.reset with sbox := c.1, rounds := c.2.1 } c.2.2 ∧
    Responds (.dec c.2.2 Source.testTweak Source.testW0 Source.testK0)
      { State.reset with sbox := c.1, rounds := c.2.1 } Source.testBlock

/-- 95_test_vectors.md section 2.10: the clamping table, as `N`, `ROUNDS` after SETROUNDS, `SBOX` after SETSBOX. -/
def Obligations.ClampingTableRowByRow : Prop :=
  ∀ c ∈ ([(-2147483648, 1, 0), (-1, 1, 0), (0, 1, 0), (1, 1, 1), (2, 2, 2), (3, 3, 2), (5, 5, 2), (7, 7, 2), (8, 7, 2),
      (9, 7, 2), (2147483647, 7, 2)] : List (Int × BitVec 3 × BitVec 2)),
    exec (.setrounds (BitVec.ofInt 32 c.1)) State.reset = .next { State.reset with rounds := c.2.1 } ∧
    exec (.setsbox (BitVec.ofInt 32 c.1)) State.reset = .next { State.reset with sbox := c.2.2 }
end

