-- ==== Sys2Proof/Laws/Cipher.lean ====
section
/-! SUPPORT. What each function of the cipher gives, cell by cell or phase by phase. -/

namespace Sys2Proof.Machine

@[simp] theorem textToCells_apply (b : Word) (j : CellIndex) : textToCells b j = cellOf b j := rfl

@[simp] theorem gather_apply (table : Perm16) (cs : Cells) (i : CellIndex) : gather table cs i = cs table[i] := rfl

@[simp] theorem xorCells_apply (a b : Cells) (i : CellIndex) : xorCells a b i = a i ^^^ b i := rfl

@[simp] theorem mapAt_apply (ps : List CellIndex) (f : Cell → Cell) (cs : Cells) (i : CellIndex) :
    mapAt ps f cs i = if ps.contains i then f (cs i) else cs i := rfl

@[simp] theorem mixColumns_apply (cs : Cells) (m : Vector RotAmount 16) (i : CellIndex) :
    mixColumns cs m i = mixCell cs m (rowOf i) (colOf i) := rfl

@[simp] theorem substitute_apply (s : BitVec 2) (cs : Cells) (j : CellIndex) :
    substitute s cs j = sboxLookup s (cs j) := rfl

@[simp] theorem substituteInv_apply (s : BitVec 2) (cs : Cells) (j : CellIndex) :
    substituteInv s cs j = sboxInvLookup s (cs j) := rfl

theorem sboxLookup_of_lt {s : BitVec 2} (h : s.toNat < 3) (v : Cell) :
    sboxLookup s v = sboxTab[s.toNat][v.toFin] := by
  simp [sboxLookup, h]

theorem sboxInvLookup_of_lt {s : BitVec 2} (h : s.toNat < 3) (v : Cell) :
    sboxInvLookup s v = sboxInv[s.toNat][v.toFin] := by
  simp [sboxInvLookup, h]

theorem forward_zero (s : BitVec 2) (b k : Word) :
    forward s b k 0 = cellsToText (substitute s (textToCells (b ^^^ k))) := rfl

theorem forward_of_ne_zero (s : BitVec 2) (b k : Word) {r : Nat} (h : r ≠ 0) :
    forward s b k r = cellsToText (substitute s (mixColumns (shuffle (textToCells (b ^^^ k))) mixMatrix)) := by
  simp [forward, h]

theorem backward_zero (s : BitVec 2) (b k : Word) :
    backward s b k 0 = cellsToText (substituteInv s (textToCells b)) ^^^ k := rfl

theorem backward_of_ne_zero (s : BitVec 2) (b k : Word) {r : Nat} (h : r ≠ 0) :
    backward s b k r = cellsToText (shuffleInv (mixColumns (substituteInv s (textToCells b)) mixMatrix)) ^^^ k := by
  simp [backward, h]

@[simp] theorem runPhases_nil (q : Request) (w : Work) : runPhases q [] w = w := rfl

@[simp] theorem runPhases_cons (q : Request) (p : Phase) (ps : List Phase) (w : Work) :
    runPhases q (p :: ps) w = runPhases q ps (runPhase q w p) := rfl

@[simp] theorem runPhases_append (q : Request) (ps qs : List Phase) (w : Work) :
    runPhases q (ps ++ qs) w = runPhases q qs (runPhases q ps w) := by
  simp [runPhases]

end Sys2Proof.Machine
end

