-- ==== Sys2Proof/Laws/State.lean ====
section
/-! SUPPORT. One lemma per field per named update of the state. -/

namespace Sys2Proof.Machine

@[simp] theorem writeRounds_rounds (v : BitVec 3) (s : State) : (writeRounds v s).rounds = v := rfl
@[simp] theorem writeRounds_sbox (v : BitVec 3) (s : State) : (writeRounds v s).sbox = s.sbox := rfl
@[simp] theorem writeRounds_response (v : BitVec 3) (s : State) : (writeRounds v s).response = s.response := rfl
@[simp] theorem writeRounds_input (v : BitVec 3) (s : State) : (writeRounds v s).input = s.input := rfl

@[simp] theorem writeSbox_rounds (v : BitVec 2) (s : State) : (writeSbox v s).rounds = s.rounds := rfl
@[simp] theorem writeSbox_sbox (v : BitVec 2) (s : State) : (writeSbox v s).sbox = v := rfl
@[simp] theorem writeSbox_response (v : BitVec 2) (s : State) : (writeSbox v s).response = s.response := rfl
@[simp] theorem writeSbox_input (v : BitVec 2) (s : State) : (writeSbox v s).input = s.input := rfl

@[simp] theorem respond_rounds (v : Word) (s : State) : (respond v s).rounds = s.rounds := rfl
@[simp] theorem respond_sbox (v : Word) (s : State) : (respond v s).sbox = s.sbox := rfl
@[simp] theorem respond_response (v : Word) (s : State) : (respond v s).response = some v := rfl
@[simp] theorem respond_input (v : Word) (s : State) : (respond v s).input = s.input := rfl

@[simp] theorem noResponse_rounds (s : State) : (noResponse s).rounds = s.rounds := rfl
@[simp] theorem noResponse_sbox (s : State) : (noResponse s).sbox = s.sbox := rfl
@[simp] theorem noResponse_response (s : State) : (noResponse s).response = none := rfl
@[simp] theorem noResponse_input (s : State) : (noResponse s).input = s.input := rfl

@[simp] theorem resetInstance_rounds (s : State) : (resetInstance s).rounds = Config.roundsReset := rfl
@[simp] theorem resetInstance_sbox (s : State) : (resetInstance s).sbox = Config.sboxReset := rfl
@[simp] theorem resetInstance_response (s : State) : (resetInstance s).response = none := rfl
@[simp] theorem resetInstance_input (s : State) : (resetInstance s).input = s.input := rfl

@[simp] theorem presentEvent_rounds (e : HostEvent) (s : State) : (presentEvent e s).rounds = s.rounds := rfl
@[simp] theorem presentEvent_sbox (e : HostEvent) (s : State) : (presentEvent e s).sbox = s.sbox := rfl
@[simp] theorem presentEvent_response (e : HostEvent) (s : State) : (presentEvent e s).response = s.response := rfl
@[simp] theorem presentEvent_input (e : HostEvent) (s : State) : (presentEvent e s).input = e :: s.input := rfl

/-- Two states with the same four fields are the same state. -/
theorem state_eq_of_fields {s t : State} (hr : s.rounds = t.rounds) (hs : s.sbox = t.sbox)
    (ho : s.response = t.response) (hi : s.input = t.input) : s = t := by
  cases s
  cases t
  simp_all

end Sys2Proof.Machine
end

