-- ==== Sys2Proof/Laws/Ops.lean ====
section
/-! SUPPORT. What the shared operations can do: taking an event, clamping, the effect of each command. -/

namespace Sys2Proof.Machine

@[simp] theorem takeEvent_of_nil {s : State} (h : s.input = []) : takeEvent s = none := by
  simp [takeEvent, h]

@[simp] theorem takeEvent_of_cons {s : State} {e : HostEvent} {rest : List HostEvent} (h : s.input = e :: rest) :
    takeEvent s = some (e, { s with input := rest }) := by
  simp [takeEvent, h]

/-- Everything `takeEvent` can do: it takes the head of the input and changes nothing else. -/
theorem takeEvent_eq_some {s s' : State} {e : HostEvent} (h : takeEvent s = some (e, s')) :
    ∃ rest, s.input = e :: rest ∧ s' = { s with input := rest } := by
  cases hi : s.input with
  | nil => simp [takeEvent, hi] at h
  | cons e' rest =>
    simp only [takeEvent, hi, Option.some.injEq, Prod.mk.injEq] at h
    exact ⟨rest, by rw [h.1], h.2.symm⟩

@[simp] theorem exec_enc (x t w0 k0 : Word) (s : State) :
    exec (.enc x t w0 k0) s = .next (respond (sequence (snapshot .encrypt x t w0 k0 s)) s) := rfl

@[simp] theorem exec_dec (x t w0 k0 : Word) (s : State) :
    exec (.dec x t w0 k0) s = .next (respond (sequence (snapshot .decrypt x t w0 k0 s)) s) := rfl

@[simp] theorem exec_setrounds (n : BitVec 32) (s : State) :
    exec (.setrounds n) s = .next (noResponse (writeRounds (clampRounds (signedOperand n)) s)) := rfl

@[simp] theorem exec_setsbox (n : BitVec 32) (s : State) :
    exec (.setsbox n) s = .next (noResponse (writeSbox (clampSbox (signedOperand n)) s)) := rfl

theorem clampRounds_of_low {n : Int} (h : n < 1) : clampRounds n = 1 := by
  simp [clampRounds, Config.roundsMin, h]

theorem clampRounds_of_high {n : Int} (h : 7 < n) : clampRounds n = 7 := by
  have h1 : ¬ n < 1 := by omega
  simp only [clampRounds, Config.roundsMin, Config.roundsMax, if_neg h1, gt_iff_lt, if_pos h]
  decide

theorem clampRounds_of_mem {n : Int} (h1 : 1 ≤ n) (h7 : n ≤ 7) : clampRounds n = BitVec.ofInt 3 n := by
  have h1' : ¬ n < 1 := by omega
  have h7' : ¬ 7 < n := by omega
  simp only [clampRounds, Config.roundsMin, Config.roundsMax, if_neg h1', gt_iff_lt, if_neg h7']

theorem clampSbox_of_low {n : Int} (h : n < 0) : clampSbox n = 0 := by
  simp [clampSbox, Config.sboxMin, h]

theorem clampSbox_of_high {n : Int} (h : 2 < n) : clampSbox n = 2 := by
  have h1 : ¬ n < 0 := by omega
  simp only [clampSbox, Config.sboxMin, Config.sboxMax, if_neg h1, gt_iff_lt, if_pos h]
  decide

theorem clampSbox_of_mem {n : Int} (h0 : 0 ≤ n) (h2 : n ≤ 2) : clampSbox n = BitVec.ofInt 2 n := by
  have h0' : ¬ n < 0 := by omega
  have h2' : ¬ 2 < n := by omega
  simp only [clampSbox, Config.sboxMin, Config.sboxMax, if_neg h0', gt_iff_lt, if_neg h2']

end Sys2Proof.Machine
end

