-- ==== Sys2Proof/Laws/PerInstr.lean ====
section
/-! SUPPORT. The family `PortRoundTrip`: the decoder reads a command back from the ports the encoder drives for it. -/

namespace Sys2Proof.Laws.PortRoundTrip

/-- The command is well formed, and decoding its ports gives it back. -/
def Statement (i : Instr) : Prop :=
  i.wellFormed = true ∧ decode (encode i) = i

theorem enc (x t w0 k0 : Word) : Statement (.enc x t w0 k0) := ⟨rfl, by simp [decode, encode]⟩

theorem dec (x t w0 k0 : Word) : Statement (.dec x t w0 k0) := ⟨rfl, by simp [decode, encode]⟩

theorem setrounds (n : BitVec 32) : Statement (.setrounds n) := ⟨rfl, by simp [decode, encode]⟩

theorem setsbox (n : BitVec 32) : Statement (.setsbox n) := ⟨rfl, by simp [decode, encode]⟩

end Sys2Proof.Laws.PortRoundTrip
end

