-- ==== Sys2Proof/Laws/Tables.lean ====
section
/-! SUPPORT. The properties (a) to (e) that R79 asks of the static tables, one lemma each. Property (f), about `mixColumns`, is
tested in Sys2Proof/Tests/Slice0.lean and stated for every block in `Obligations.TablesHaveTheirProperties`. -/

namespace Sys2Proof.Machine

/-- R79 (a), R73: `SBOXINV[s][SBOXTAB[s][v]] = v`. -/
theorem sboxInv_sboxTab : ∀ (s : Fin 3) (v : Cell), sboxInv[s][sboxTab[s][v.toFin].toFin] = v := by decide

/-- R79 (a): `SBOXTAB[s][SBOXINV[s][v]] = v`, so that with the lemma above each `SBOXTAB[s]` is a permutation of 0..15. -/
theorem sboxTab_sboxInv : ∀ (s : Fin 3) (v : Cell), sboxTab[s][sboxInv[s][v.toFin].toFin] = v := by decide

/-- R79 (b): `SBOXTAB[0]` is an involution. -/
theorem sboxTab_zero_involutive : ∀ v : Cell, sboxTab[0][sboxTab[0][v.toFin].toFin] = v := by decide

/-- R79 (b): `SBOXTAB[1]` is an involution. -/
theorem sboxTab_one_involutive : ∀ v : Cell, sboxTab[1][sboxTab[1][v.toFin].toFin] = v := by decide

/-- R79 (b): `SBOXTAB[2]` is no involution, by the rule's own example. -/
theorem sboxTab_two_not_involutive : sboxTab[2][sboxTab[2][(0 : Cell).toFin].toFin] = 5 := by decide

/-- R79 (c): `t_inv` is the inverse of `t`. -/
theorem shufflePermInv_shufflePerm : ∀ i : CellIndex, shufflePermInv[shufflePerm[i]] = i := by decide

/-- R79 (c): `t` is the inverse of `t_inv`. -/
theorem shufflePerm_shufflePermInv : ∀ i : CellIndex, shufflePerm[shufflePermInv[i]] = i := by decide

/-- R79 (c): `h_inv` is the inverse of `h`. -/
theorem tweakPermInv_tweakPerm : ∀ i : CellIndex, tweakPermInv[tweakPerm[i]] = i := by decide

/-- R79 (c): `h` is the inverse of `h_inv`. -/
theorem tweakPerm_tweakPermInv : ∀ i : CellIndex, tweakPerm[tweakPermInv[i]] = i := by decide

/-- R79 (d): every entry of `M` is in `{0, 1, 2}`; the type `RotAmount` of its entries already says so. -/
theorem mixMatrix_entry_lt (i : CellIndex) : mixMatrix[i].val < 3 :=
  mixMatrix[i].isLt

/-- R79 (e): `alpha` is odd. -/
theorem alpha_odd : alpha.toNat % 2 = 1 := by decide

end Sys2Proof.Machine
end

