-- ==== Sys2Proof/Tests/Slice0.lean ====
section
/-! SUPPORT. The model's own tests, against the examples and tables of spec/, and a witness for the hypotheses of each statement. -/

namespace Sys2Proof.Tests

open Machine

/-- A small state: given registers, an empty input. -/
def configured (rounds : BitVec 3) (sbox : BitVec 2) : State where
  rounds := rounds
  sbox := sbox
  response := none
  input := []

/-- The source's operands (95_test_vectors.md section 1.1) as a request. -/
def sourceRequest (dir : Direction) (x : Word) (rounds : BitVec 3) (sbox : BitVec 2) : Request where
  dir := dir
  x := x
  t := Source.testTweak
  w0 := Source.testW0
  k0 := Source.testK0
  rounds := rounds
  sbox := sbox

/-! ## Well-formedness: there is no ill-formed term, since every operand value is legal (R51) -/

theorem test_every_operand_value_is_well_formed (i : Instr) : i.wellFormed = true := by
  cases i <;> rfl

/-! ## Decoding: ports and bits written out from R47, R48 and 30_encoding.md section 4 -/

theorem test_decode_enc :
    decode ⟨0b00#2, 0x1#64, 0x2#64, 0x3#64, 0x4#64, 0xFFFFFFFF#32⟩ = .enc 0x1#64 0x2#64 0x3#64 0x4#64 := by decide

theorem test_decode_dec :
    decode ⟨0b01#2, 0x1#64, 0x2#64, 0x3#64, 0x4#64, 0xFFFFFFFF#32⟩ = .dec 0x1#64 0x2#64 0x3#64 0x4#64 := by decide

theorem test_decode_setrounds :
    decode ⟨0b10#2, 0x1#64, 0x2#64, 0x3#64, 0x4#64, 0xFFFFFFFF#32⟩ = .setrounds 0xFFFFFFFF#32 := by decide

theorem test_decode_setsbox :
    decode ⟨0b11#2, 0x1#64, 0x2#64, 0x3#64, 0x4#64, 0x00000009#32⟩ = .setsbox 0x00000009#32 := by decide

theorem test_table_word_of_dec : decodeTableWord 8 0b00000001 = some (.dec 0 0 0 0) := by decide

theorem test_port_bits_of_setrounds :
    decodeBits (0x00000005#32 ++ 0#64 ++ 0#64 ++ 0#64 ++ 0#64 ++ 0b10#2) = .setrounds 0x00000005#32 := by decide +kernel

/-! ## ENC: the source's vector for SBOX 2, ROUNDS 5, and two rows of the trace of 95_test_vectors.md section 3.1 -/

theorem test_enc_source_vector :
    sequence (sourceRequest .encrypt Source.testBlock 5 2) = 0xC003B93999B33765 := by decide +kernel

theorem test_enc_trace_after_forward_rounds :
    (runPhases (sourceRequest .encrypt Source.testBlock 5 2) ((phases 5).take 7) unsetWork).is = 0xA016FB0E39F9E12F ∧
    (runPhases (sourceRequest .encrypt Source.testBlock 5 2) ((phases 5).take 7) unsetWork).tk = 0x3A45016CCCFAAFF8 := by
  decide +kernel

/-! ## DEC: the source's vector for SBOX 0, ROUNDS 7, and a row of the trace of section 3.2 -/

theorem test_dec_source_vector :
    sequence (sourceRequest .decrypt 0xBCAF6C89DE930765 7 0) = Source.testBlock := by decide +kernel

theorem test_dec_trace_after_reflection :
    (runPhases (sourceRequest .decrypt 0xC003B93999B33765 5 2) ((phases 5).take 9) unsetWork).is = 0xC59CE818F8EB51CE := by
  decide +kernel

/-! ## SETROUNDS and SETSBOX: program P3 of 95_test_vectors.md section 5 -/

theorem test_setrounds_zero : exec (.setrounds 0x00000000#32) State.reset = .next (configured 1 2) := rfl

theorem test_setrounds_hundred : exec (.setrounds 0x00000064#32) (configured 1 2) = .next (configured 7 2) := rfl

theorem test_setsbox_nine : exec (.setsbox 0x00000009#32) (configured 1 0) = .next (configured 1 2) := rfl

theorem test_setsbox_minus_three : exec (.setsbox 0xFFFFFFFD#32) (configured 7 2) = .next (configured 7 0) := rfl

/-! ## The mixing matrix (R79 (f), R92) -/

/-- The example of 42_cell_algebra.md section 2, and back again by the same `mixColumns`. -/
theorem test_mixColumns_undoes_itself :
    cellsToText (mixColumns (textToCells 0x0123456789ABCDEF) mixMatrix) = 0x37BF26AE159D048C ∧
      cellsToText (mixColumns (textToCells 0x37BF26AE159D048C) mixMatrix) = 0x0123456789ABCDEF := by
  decide +kernel

/-! ## Reset as an event (R180): the registers, whatever they held -/

theorem test_reset_event :
    step { configured 1 0 with input := [.reset] } = .next (configured 5 2) := rfl

/-! ## Witnesses: for each statement with hypotheses, values that meet all of them -/

/-- For every statement whose hypothesis is `Legal s`, at both ends of both ranges (and `s.sbox.toNat < 3`). -/
theorem witness_legal : Legal (configured 1 0) ∧ Legal (configured 7 2) ∧ (configured 7 2).sbox.toNat < 3 := by decide

/-- DecodeKeepsNamedPortsAndIgnoresTheOthers: the opcodes at the border of the two formats. -/
theorem witness_formats : (encode (.dec 1 2 3 4)).op.toNat < 2 ∧ 2 ≤ (encode (.setrounds 5)).op.toNat := by decide

/-- CellZeroIsTheTopDigit: a bit inside a cell, at both ends. -/
theorem witness_cell_bit : (0 : Nat) < 4 ∧ (3 : Nat) < 4 := by decide

/-- RotateCombineIsARotationOrNothing: both amounts that rotate. -/
theorem witness_rotation : (1 : RotAmount) ≠ 0 ∧ (2 : RotAmount) ≠ 0 := by decide

/-- MixColumnsAccumulatesTheColumn, third clause: the block whose only nonzero cell is cell 0, and for its two cases the cell's own
place, another column, and another row of its column. -/
theorem witness_single_cell :
    (∀ x' y' : Fin 4, (x', y') ≠ ((0 : Fin 4), (0 : Fin 4)) → textToCells 0x1000000000000000 (cellAt x' y') = 0) ∧
    textToCells 0x1000000000000000 (cellAt 0 0) ≠ 0 ∧ (1 : Fin 4) ≠ 0 := by decide +kernel

/-- ForwardDiffusesUnlessRoundZero, BackwardUndiffusesUnlessRoundZero, BackwardInvertsForward: a round that diffuses, and each
family. -/
theorem witness_round_and_family : (1 : Nat) ≠ 0 ∧ (0#2).toNat < 3 ∧ (1#2).toNat < 3 ∧ (2#2).toNat < 3 := by decide

/-- BackwardUpdateKeyCellByCell: an output position whose input position is one of the seven, and one whose input is not. -/
theorem witness_positions : tweakPermInv[(0 : CellIndex)] = 4 ∧ tweakPermInv[(1 : CellIndex)] = 5 := by decide

/-- KeyUpdatesAreExactlyReversible, TweakSequenceDependsOnTheTweakAlone: the last round of the longest and of the shortest command. -/
theorem witness_round_index :
    (6 : Fin 7).val < (sourceRequest .encrypt 0 7 2).rounds.toNat ∧ (0 : Fin 7).val < (sourceRequest .encrypt 0 1 2).rounds.toNat := by
  decide

/-- OrthoBitByBit: both ends of the middle range. -/
theorem witness_middle_bits : 1 ≤ (1 : Nat) ∧ (1 : Nat) ≤ 62 ∧ 1 ≤ (62 : Nat) ∧ (62 : Nat) ≤ 62 := by decide

/-- RegistersChangeOnlyByTheirCommandOrReset, first register: a step that changes `ROUNDS`. -/
theorem witness_rounds_change :
    ∃ s t : State, step s = .next t ∧ t.rounds ≠ s.rounds :=
  ⟨presentEvent (.command (encode (.setrounds 7))) State.reset, configured 7 2, rfl, by decide⟩

/-- RegistersChangeOnlyByTheirCommandOrReset, second register: a step that changes `SBOX`. -/
theorem witness_sbox_change :
    ∃ s t : State, step s = .next t ∧ t.sbox ≠ s.sbox :=
  ⟨presentEvent (.command (encode (.setsbox 0))) State.reset, configured 5 0, rfl, by decide⟩

/-- EveryCommandIsIdempotent, CipherCommandsDoNotAffectEachOther, ResponsesDependOnOperandsAndRegistersOnly: both cipher
commands. -/
theorem witness_cipher_commands : isCipher (.enc 1 2 3 4) = true ∧ isCipher (.dec 1 2 3 4) = true := by decide

/-- ResponsesDependOnOperandsAndRegistersOnly: two different states with the same registers and input. -/
theorem witness_states_that_differ_in_the_response :
    configured 5 2 ≠ respond 1 (configured 5 2) ∧ (configured 5 2).rounds = (respond 1 (configured 5 2)).rounds ∧
    (configured 5 2).sbox = (respond 1 (configured 5 2)).sbox ∧ (configured 5 2).input = (respond 1 (configured 5 2)).input := by
  decide

end Sys2Proof.Tests
end

/-! Frames and idempotence of the commands (20_memory.md, R36). -/

namespace Sys2Proof.Machine

/-- Of the state, a cipher command samples the two registers only (R35), so an earlier response does not reach it. -/
@[simp] theorem snapshot_respond (dir : Direction) (x t w0 k0 v : Word) (s : State) :
    snapshot dir x t w0 k0 (respond v s) = snapshot dir x t w0 k0 s := rfl

@[simp] theorem respond_respond (v w : Word) (s : State) : respond v (respond w s) = respond v s := rfl

@[simp] theorem noResponse_writeRounds_twice (v w : BitVec 3) (s : State) :
    noResponse (writeRounds v (noResponse (writeRounds w s))) = noResponse (writeRounds v s) := rfl

@[simp] theorem noResponse_writeSbox_twice (v w : BitVec 2) (s : State) :
    noResponse (writeSbox v (noResponse (writeSbox w s))) = noResponse (writeSbox v s) := rfl

theorem exec_completes (i : Instr) (s : State) : ∃ t, exec i s = .next t := by
  cases i with
  | enc x t w0 k0 => exact ⟨_, exec_enc x t w0 k0 s⟩
  | dec x t w0 k0 => exact ⟨_, exec_dec x t w0 k0 s⟩
  | setrounds n => exact ⟨_, exec_setrounds n s⟩
  | setsbox n => exact ⟨_, exec_setsbox n s⟩

/-- What a command writes does not depend on what it overwrites: the state it leaves is a fixed point of it. -/
theorem exec_idempotent {i : Instr} {s t : State} (h : exec i s = .next t) : exec i t = .next t := by
  cases i with
  | enc x tweak w0 k0 =>
    obtain rfl : respond (sequence (snapshot .encrypt x tweak w0 k0 s)) s = t := by simpa using h
    rw [exec_enc, snapshot_respond, respond_respond]
  | dec x tweak w0 k0 =>
    obtain rfl : respond (sequence (snapshot .decrypt x tweak w0 k0 s)) s = t := by simpa using h
    rw [exec_dec, snapshot_respond, respond_respond]
  | setrounds n =>
    obtain rfl : noResponse (writeRounds (clampRounds (signedOperand n)) s) = t := by simpa using h
    rw [exec_setrounds, noResponse_writeRounds_twice]
  | setsbox n =>
    obtain rfl : noResponse (writeSbox (clampSbox (signedOperand n)) s) = t := by simpa using h
    rw [exec_setsbox, noResponse_writeSbox_twice]

/-- All that a cipher command does to the state is to put its answer on the response port (R36, R50). -/
theorem exec_of_isCipher {i : Instr} (hi : isCipher i = true) (s : State) :
    ∃ out, exec i s = .next (respond out s) := by
  cases i with
  | enc x t w0 k0 => exact ⟨_, exec_enc x t w0 k0 s⟩
  | dec x t w0 k0 => exact ⟨_, exec_dec x t w0 k0 s⟩
  | setrounds n => simp [isCipher] at hi
  | setsbox n => simp [isCipher] at hi

/-- Settles O43: the state a command leaves is a fixed point of it, and a cipher command only responds. -/
theorem everyCommandIsIdempotent : Obligations.EveryCommandIsIdempotent := by
  unfold Obligations.EveryCommandIsIdempotent
  constructor
  · intro i s
    obtain ⟨t, ht⟩ := exec_completes i s
    exact ⟨t, ht, exec_idempotent ht⟩
  · intro i s hi
    obtain ⟨out, hout⟩ := exec_of_isCipher hi s
    exact ⟨respond out s, hout, respond_rounds out s, respond_sbox out s⟩

end Sys2Proof.Machine


/-! The cell codec (40_cell_codec.md), bit by bit: cell `j` is the bits `60-4j` to `63-4j` of the value, in both directions. -/

namespace Sys2Proof.Machine

/-- R60: bit `k` of cell `j` of a value. -/
theorem cellOf_getLsbD (b : Word) (j : CellIndex) {k : Nat} (hk : k < 4) :
    (cellOf b j).getLsbD k = b.getLsbD (60 - 4 * j.val + k) := by
  simp [cellOf, hk]

/-- Every bit of a value lies in one of its sixteen cells. -/
theorem exists_cell_of_bit {i : Nat} (hi : i < 64) :
    ∃ (j : CellIndex) (k : Nat), k < 4 ∧ i = 60 - 4 * j.val + k :=
  ⟨⟨(63 - i) / 4, by omega⟩, i % 4, by omega, by simp only; omega⟩

/-- A bit of an accumulated or is set exactly when it is set at the start or in one of the terms. -/
theorem getLsbD_foldl_or {α : Type} {w : Nat} (f : α → BitVec w) (i : Nat) (l : List α) (z : BitVec w) :
    (l.foldl (fun b a => b ||| f a) z).getLsbD i = (z.getLsbD i || l.any fun a => (f a).getLsbD i) := by
  induction l generalizing z with
  | nil => simp
  | cons a l ih => rw [List.foldl_cons, ih, BitVec.getLsbD_or, List.any_cons, Bool.or_assoc]

/-- A cell shifted to place `m` reaches the bits of place `j` only when `m = j`: the places do not overlap. -/
theorem getLsbD_placed_cell (c : Cell) (m j : CellIndex) {k : Nat} (hk : k < 4) :
    (c.setWidth 64 <<< (60 - 4 * m.val)).getLsbD (60 - 4 * j.val + k) = (decide (m = j) && c.getLsbD k) := by
  have hbit : 60 - 4 * j.val + k < 64 := by omega
  rw [BitVec.getLsbD_shiftLeft, BitVec.getLsbD_setWidth]
  obtain hlt | rfl | hgt := lt_trichotomy m j
  · have hval : m.val < j.val := hlt
    have hbelow : 60 - 4 * j.val + k < 60 - 4 * m.val := by omega
    simp [hbelow, hlt.ne]
  · have hin : 60 - 4 * m.val + k - (60 - 4 * m.val) = k := by omega
    have hcell : k < 64 := by omega
    simp [hbit, hin, hcell]
  · have hval : j.val < m.val := hgt
    have habove : 4 ≤ 60 - 4 * j.val + k - (60 - 4 * m.val) := by omega
    simp [BitVec.getLsbD_of_ge c _ habove, hgt.ne']

/-- R62: the bits of place `j` of the joined value are the bits of cell `j`. -/
theorem cellsToText_getLsbD (cs : Cells) (j : CellIndex) {k : Nat} (hk : k < 4) :
    (cellsToText cs).getLsbD (60 - 4 * j.val + k) = (cs j).getLsbD k := by
  rw [cellsToText, getLsbD_foldl_or, Bool.eq_iff_iff]
  simp [getLsbD_placed_cell _ _ j hk]

@[simp] theorem cellOf_cellsToText (cs : Cells) (j : CellIndex) : cellOf (cellsToText cs) j = cs j := by
  refine BitVec.eq_of_getLsbD_eq fun k hk => ?_
  rw [cellOf_getLsbD _ j hk, cellsToText_getLsbD cs j hk]

@[simp] theorem textToCells_cellsToText (cs : Cells) : textToCells (cellsToText cs) = cs :=
  funext (cellOf_cellsToText cs)

@[simp] theorem cellsToText_textToCells (b : Word) : cellsToText (textToCells b) = b := by
  refine BitVec.eq_of_getLsbD_eq fun i hi => ?_
  obtain ⟨j, k, hk, rfl⟩ := exists_cell_of_bit hi
  rw [cellsToText_getLsbD _ j hk, textToCells_apply, cellOf_getLsbD b j hk]

/-- Settles O10: the two directions of the codec put the same bits at the same places, and the sixteen places cover the value. -/
theorem codecIsAnExactBijection : Obligations.CodecIsAnExactBijection := by
  unfold Obligations.CodecIsAnExactBijection
  exact ⟨cellsToText_textToCells, textToCells_cellsToText⟩

end Sys2Proof.Machine


/-! The cell algebra (42_cell_algebra.md, R90, R91, R96): the rotation and the two shift registers bit by bit, `mixColumns` as the
sum over one column. -/

namespace Sys2Proof.Machine

/-! ### The rotation (R90) -/

@[simp] theorem rotateCombine_zero_amount (a : Cell) : rotateCombine a 0 = 0 := rfl

theorem rotateCombine_of_ne_zero (a : Cell) {n : RotAmount} (hn : n ≠ 0) :
    rotateCombine a n = (a <<< n.val) ||| (a >>> (4 - n.val)) :=
  if_neg hn

@[simp] theorem rotateCombine_zero_cell (n : RotAmount) : rotateCombine 0#4 n = 0#4 := by
  by_cases hn : n = 0
  · exact hn ▸ rotateCombine_zero_amount 0
  · rw [rotateCombine_of_ne_zero _ hn, BitVec.zero_shiftLeft, BitVec.zero_ushiftRight, BitVec.or_self]

theorem rotateCombine_eq_rotateLeft (a : Cell) {n : RotAmount} (hn : n ≠ 0) :
    rotateCombine a n = a.rotateLeft n.val := by
  have hlt : n.val % 4 = n.val := Nat.mod_eq_of_lt (by omega)
  rw [rotateCombine_of_ne_zero a hn, BitVec.rotateLeft_def, hlt]

/-- A rotation left by `n` takes bit `k` from `n` places below, around the end of the cell. -/
theorem rotateCombine_getLsbD (a : Cell) {n : RotAmount} (hn : n ≠ 0) {k : Nat} (hk : k < 4) :
    (rotateCombine a n).getLsbD k = a.getLsbD ((k + (4 - n.val)) % 4) := by
  have hlt : n.val % 4 = n.val := Nat.mod_eq_of_lt (by omega)
  rw [rotateCombine_eq_rotateLeft a hn, BitVec.getLsbD_rotateLeft, hlt]
  by_cases hkn : k < n.val
  · have hwrap : (k + (4 - n.val)) % 4 = 4 - n.val + k := by omega
    simp [hkn, hwrap]
  · have hdown : (k + (4 - n.val)) % 4 = k - n.val := by omega
    simp [hkn, hk, hdown]

/-- The bits a shift moves up and those that come around from the top lie at different places. -/
theorem shiftLeft_and_ushiftRight_eq_zero (a : Cell) (n : Nat) : (a <<< n) &&& (a >>> (4 - n)) = 0 := by
  refine BitVec.eq_of_getLsbD_eq fun k hk => ?_
  by_cases hkn : k < n
  · simp [hkn]
  · have habove : 4 ≤ 4 - n + k := by omega
    simp [BitVec.getLsbD_of_ge a _ habove]

/-- R90's formula: the two parts are disjoint, so their or is their sum. -/
theorem rotateCombine_toNat (a : Cell) {n : RotAmount} (hn : n ≠ 0) :
    (rotateCombine a n).toNat = (a.toNat * 2 ^ n.val) % 16 + a.toNat / 2 ^ (4 - n.val) := by
  have hdisjoint := shiftLeft_and_ushiftRight_eq_zero a n.val
  rw [rotateCombine_of_ne_zero a hn, ← BitVec.add_eq_or_of_and_eq_zero _ _ hdisjoint,
    BitVec.toNat_add_of_and_eq_zero hdisjoint, BitVec.toNat_shiftLeft, BitVec.toNat_ushiftRight,
    Nat.shiftLeft_eq, Nat.shiftRight_eq_div_pow]

/-- A rotation loses no bit: only amount 0 and the zero cell contribute nothing. -/
theorem rotateCombine_eq_zero_iff (a : Cell) (n : RotAmount) : rotateCombine a n = 0 ↔ n = 0 ∨ a = 0 := by
  constructor
  · intro hzero
    by_cases hn : n = 0
    · exact .inl hn
    · refine .inr (BitVec.eq_of_getLsbD_eq fun i hi => ?_)
      have hplace : ((i + n.val) % 4 + (4 - n.val)) % 4 = i := by omega
      have hbit := rotateCombine_getLsbD a hn (Nat.mod_lt (i + n.val) (by omega))
      rw [hplace, hzero] at hbit
      simpa using hbit.symm
  · rintro (rfl | rfl)
    · exact rotateCombine_zero_amount a
    · exact rotateCombine_zero_cell n

/-- Settles O16: amounts 1 and 2 rotate, bit by bit and as a sum of disjoint parts; amount 0 gives nothing. -/
theorem rotateCombineIsARotationOrNothing : Obligations.RotateCombineIsARotationOrNothing := by
  unfold Obligations.RotateCombineIsARotationOrNothing
  refine ⟨rotateCombine_zero_amount, fun a n hn => rotateCombine_toNat a hn, fun a k => ?bits,
    rotateCombine_zero_cell, ?cornersAndTables⟩
  case bits => exact ⟨rotateCombine_getLsbD a (by decide) k.isLt, rotateCombine_getLsbD a (by decide) k.isLt⟩
  case cornersAndTables => decide

/-! ### The columns (R91) -/

@[simp] theorem rowOf_cellAt (x y : Fin 4) : rowOf (cellAt x y) = x :=
  Fin.ext (by simp only [rowOf, cellAt]; omega)

@[simp] theorem colOf_cellAt (x y : Fin 4) : colOf (cellAt x y) = y :=
  Fin.ext (by simp only [colOf, cellAt]; omega)

/-- R91: the accumulation written out, for any matrix. -/
theorem mixCell_eq_xor (cs : Cells) (m : Vector RotAmount 16) (x y : Fin 4) :
    mixCell cs m x y =
      rotateCombine (cs (cellAt 0 y)) m[cellAt x 0] ^^^ rotateCombine (cs (cellAt 1 y)) m[cellAt x 1]
        ^^^ rotateCombine (cs (cellAt 2 y)) m[cellAt x 2] ^^^ rotateCombine (cs (cellAt 3 y)) m[cellAt x 3] := by
  simp [mixCell, List.finRange_succ]

theorem mixColumns_cellAt (cs : Cells) (m : Vector RotAmount 16) (x y : Fin 4) :
    mixColumns cs m (cellAt x y) = mixCell cs m x y := by
  rw [mixColumns_apply, rowOf_cellAt, colOf_cellAt]

theorem mixCell_of_zero_column {cs : Cells} {y : Fin 4} (hzero : ∀ j : Fin 4, cs (cellAt j y) = 0#4)
    (m : Vector RotAmount 16) (x : Fin 4) : mixCell cs m x y = 0#4 := by
  simp [mixCell_eq_xor, hzero]

/-- Where the other three rows of column `y` are zero, row `x` alone contributes to the column. -/
theorem mixCell_of_single_row {cs : Cells} {x y : Fin 4} (hzero : ∀ j : Fin 4, j ≠ x → cs (cellAt j y) = 0#4)
    (m : Vector RotAmount 16) (x' : Fin 4) :
    mixCell cs m x' y = rotateCombine (cs (cellAt x y)) m[cellAt x' x] := by
  rw [mixCell_eq_xor]
  fin_cases x <;> simp [hzero]

/-- R76: `M` is circulant, each row the row above it moved one place to the right. -/
theorem mixMatrix_cellAt :
    ∀ x j : Fin 4, mixMatrix[cellAt x j] = (![0, 1, 2, 1] : Fin 4 → RotAmount) (j - x) := by decide

/-- R76: the entries of `M` that contribute nothing are those of its diagonal. -/
theorem mixMatrix_eq_zero_iff : ∀ x j : Fin 4, mixMatrix[cellAt x j] = 0 ↔ x = j := by decide

/-- R91 for `M`: a cell reaches the three other rows of its column, and not its own place. -/
theorem rotateCombine_mixMatrix_eq_zero_iff (a : Cell) (x' x : Fin 4) :
    rotateCombine a mixMatrix[cellAt x' x] = 0 ↔ x' = x ∨ a = 0 := by
  rw [rotateCombine_eq_zero_iff, mixMatrix_eq_zero_iff]

section SingleCell

variable {cs : Cells} {x y : Fin 4} (hsingle : ∀ x' y' : Fin 4, (x', y') ≠ (x, y) → cs (cellAt x' y') = 0)
include hsingle

theorem mixColumns_single_cell_other_column {y' : Fin 4} (hy : y' ≠ y) (m : Vector RotAmount 16) (x' : Fin 4) :
    mixColumns cs m (cellAt x' y') = 0 := by
  rw [mixColumns_cellAt]
  exact mixCell_of_zero_column (fun j => hsingle j y' (by simp [hy])) m x'

theorem mixColumns_single_cell_same_column (m : Vector RotAmount 16) (x' : Fin 4) :
    mixColumns cs m (cellAt x' y) = rotateCombine (cs (cellAt x y)) m[cellAt x' x] := by
  rw [mixColumns_cellAt]
  exact mixCell_of_single_row (fun j hj => hsingle j y (by simp [hj])) m x'

end SingleCell

theorem mixColumns_zero (m : Vector RotAmount 16) : mixColumns (fun _ => 0) m = fun _ => 0 :=
  funext fun i => mixCell_of_zero_column (fun _ => rfl) m (rowOf i)

/-- A rotation keeps `0xF`, and each row of `M` adds up three of them. -/
theorem mixColumns_mixMatrix_allOnes : mixColumns (fun _ => 0xF) mixMatrix = fun _ => 0xF :=
  funext (by decide)

/-- Settles O17: every clause reads the sum over the column; the spreading of a single cell turns on the zeros of `M` being its
diagonal. -/
theorem mixColumnsAccumulatesTheColumn : Obligations.MixColumnsAccumulatesTheColumn := by
  unfold Obligations.MixColumnsAccumulatesTheColumn
  refine ⟨fun cs m x y => ?accumulation, fun cs y => ?equations, fun cs x y hsingle x' y' => ⟨?vanishes, ?spreads⟩,
    mixColumns_zero mixMatrix, mixColumns_mixMatrix_allOnes, ?examples⟩
  case accumulation => rw [mixColumns_cellAt, mixCell_eq_xor]
  case equations =>
    simp only [mixColumns_cellAt, mixCell_eq_xor, mixMatrix_cellAt]
    simp
  case vanishes =>
    intro h
    by_cases hy : y' = y
    · have hx : x' = x := h.resolve_left (not_not_intro hy)
      rw [hy, mixColumns_single_cell_same_column hsingle, rotateCombine_mixMatrix_eq_zero_iff]
      exact .inl hx
    · exact mixColumns_single_cell_other_column hsingle hy mixMatrix x'
  case spreads =>
    rintro rfl hx hcell
    rw [mixColumns_single_cell_same_column hsingle, Ne, rotateCombine_mixMatrix_eq_zero_iff]
    exact not_or_intro hx hcell
  case examples => decide +kernel

/-! ### The shift registers (R96) -/

/-- R94: every bit moves one place down, and bit 3 is fed with the exclusive-or of bits 0 and 1. -/
theorem lfsr_getLsbD (x : Cell) {k : Nat} (hk : k < 4) :
    (lfsr x).getLsbD k = if k = 3 then x.getLsbD 0 ^^ x.getLsbD 1 else x.getLsbD (k + 1) := by
  interval_cases k <;> simp [lfsr]

/-- R95: every bit moves one place up, and bit 0 is fed with the exclusive-or of bits 0 and 3. -/
theorem lfsrInv_getLsbD (x : Cell) {k : Nat} (hk : k < 4) :
    (lfsrInv x).getLsbD k = if k = 0 then x.getLsbD 0 ^^ x.getLsbD 3 else x.getLsbD (k - 1) := by
  interval_cases k <;> simp [lfsrInv]

@[simp] theorem lfsr_lfsrInv (x : Cell) : lfsr (lfsrInv x) = x := by
  refine BitVec.eq_of_getLsbD_eq fun k hk => ?_
  rw [lfsr_getLsbD _ hk]
  split
  · next hfed =>
    rw [hfed, lfsrInv_getLsbD x (by decide), lfsrInv_getLsbD x (by decide)]
    show ((x.getLsbD 0 ^^ x.getLsbD 3) ^^ x.getLsbD 0) = x.getLsbD 3
    rw [Bool.xor_comm, ← Bool.xor_assoc, Bool.xor_self, Bool.false_xor]
  · next hmoved =>
    rw [lfsrInv_getLsbD x (by omega), if_neg (by omega), Nat.add_sub_cancel]

@[simp] theorem lfsrInv_lfsr (x : Cell) : lfsrInv (lfsr x) = x := by
  refine BitVec.eq_of_getLsbD_eq fun k hk => ?_
  rw [lfsrInv_getLsbD _ hk]
  split
  · next hfed =>
    rw [hfed, lfsr_getLsbD x (by decide), lfsr_getLsbD x (by decide)]
    show (x.getLsbD 1 ^^ (x.getLsbD 0 ^^ x.getLsbD 1)) = x.getLsbD 0
    rw [Bool.xor_left_comm, Bool.xor_self, Bool.xor_false]
  · next hmoved =>
    rw [lfsr_getLsbD x (by omega), if_neg (by omega), Nat.sub_add_cancel (by omega)]

/-- Each bit of the result is a sum of bits, so it distributes over exclusive-or. -/
theorem lfsr_xor (a b : Cell) : lfsr (a ^^^ b) = lfsr a ^^^ lfsr b := by
  refine BitVec.eq_of_getLsbD_eq fun k hk => ?_
  simp only [lfsr_getLsbD _ hk, BitVec.getLsbD_xor]
  split
  · simp only [Bool.xor_assoc, Bool.xor_left_comm]
  · rfl

theorem lfsrInv_xor (a b : Cell) : lfsrInv (a ^^^ b) = lfsrInv a ^^^ lfsrInv b := by
  refine BitVec.eq_of_getLsbD_eq fun k hk => ?_
  simp only [lfsrInv_getLsbD _ hk, BitVec.getLsbD_xor]
  split
  · simp only [Bool.xor_assoc, Bool.xor_left_comm]
  · rfl

/-- Settles O19: the two registers move the bits in opposite directions, and what one feeds in the other cancels. -/
theorem lfsrAndItsInverseAreBijections : Obligations.LfsrAndItsInverseAreBijections := by
  unfold Obligations.LfsrAndItsInverseAreBijections
  exact ⟨lfsr_lfsrInv, lfsrInv_lfsr, lfsr_xor, lfsrInv_xor⟩

end Sys2Proof.Machine


/-! The round function (43_round_function.md, R106, R108, R111): each stage of `forward` has its inverse in `backward`, the lookups
and the gathers by the tables' own inverses, the mixing by itself. -/

namespace Sys2Proof.Machine

/-! ### The lookups (R106) -/

section HeldFamily

variable {s : BitVec 2} (hs : s.toNat < 3)
include hs

theorem sboxInvLookup_sboxLookup (v : Cell) : sboxInvLookup s (sboxLookup s v) = v := by
  rw [sboxInvLookup_of_lt hs, sboxLookup_of_lt hs]
  exact sboxInv_sboxTab ⟨s.toNat, hs⟩ v

theorem sboxLookup_sboxInvLookup (v : Cell) : sboxLookup s (sboxInvLookup s v) = v := by
  rw [sboxLookup_of_lt hs, sboxInvLookup_of_lt hs]
  exact sboxTab_sboxInv ⟨s.toNat, hs⟩ v

theorem substituteInv_substitute (cs : Cells) : substituteInv s (substitute s cs) = cs :=
  funext fun j => sboxInvLookup_sboxLookup hs (cs j)

theorem substitute_substituteInv (cs : Cells) : substitute s (substituteInv s cs) = cs :=
  funext fun j => sboxLookup_sboxInvLookup hs (cs j)

end HeldFamily

/-- R73, R79 (b): the tables of families 0 and 1 are involutions: each is its own inverse table. -/
theorem sboxInv_eq_sboxTab : ∀ s : Fin 3, s.val < 2 → sboxInv[s] = sboxTab[s] := by decide

theorem substituteInv_eq_substitute {s : BitVec 2} (hs : s.toNat < 2) : substituteInv s = substitute s := by
  have hheld : s.toNat < 3 := by omega
  funext cs j
  rw [substituteInv_apply, substitute_apply, sboxInvLookup_of_lt hheld, sboxLookup_of_lt hheld]
  exact congrArg (·[(cs j).toFin]) (sboxInv_eq_sboxTab ⟨s.toNat, hheld⟩ hs)

/-- Family 2 sends 0 to `0xB`, but it is 5 that it sends to 0. -/
theorem substituteInv_two_ne_substitute_two : substituteInv 2 (fun _ => 0) ≠ substitute 2 (fun _ => 0) :=
  fun heq => absurd (congrFun heq 0) (by decide)

/-- Settles O21: each lookup reads a table of the held family, and R79 (a) makes the two tables inverse to each other. -/
theorem substituteInvInvertsSubstitute : Obligations.SubstituteInvInvertsSubstitute := by
  unfold Obligations.SubstituteInvInvertsSubstitute
  refine ⟨fun s cs j hs => sboxInvLookup_of_lt hs (cs j),
    fun s cs hs => ⟨substituteInv_substitute hs cs, substitute_substituteInv hs cs⟩,
    fun cs => ⟨congrFun (substituteInv_eq_substitute ?zero) cs, congrFun (substituteInv_eq_substitute ?one) cs⟩,
    ⟨_, substituteInv_two_ne_substitute_two⟩, ?examples⟩
  case zero | one => decide
  case examples => decide +kernel

/-! ### The gathers (R108) -/

/-- Gathering by one table and then by another reads through both. -/
theorem gather_gather_of_inverse {p q : Perm16} (hinverse : ∀ i : CellIndex, p[q[i]] = i) (cs : Cells) :
    gather q (gather p cs) = cs :=
  funext fun i => congrArg cs (hinverse i)

@[simp] theorem shuffleInv_shuffle (cs : Cells) : shuffleInv (shuffle cs) = cs :=
  gather_gather_of_inverse shufflePerm_shufflePermInv cs

@[simp] theorem shuffle_shuffleInv (cs : Cells) : shuffle (shuffleInv cs) = cs :=
  gather_gather_of_inverse shufflePermInv_shufflePerm cs

/-- Settles O22: both shuffles are gathers, by tables that R79 (c) makes inverse to each other. -/
theorem shuffleInvInvertsShuffle : Obligations.ShuffleInvInvertsShuffle := by
  unfold Obligations.ShuffleInvInvertsShuffle
  exact ⟨shuffleInv_shuffle, shuffle_shuffleInv⟩

/-! ### The mixing (R92) -/

theorem rotateCombine_xor (a b : Cell) (n : RotAmount) :
    rotateCombine (a ^^^ b) n = rotateCombine a n ^^^ rotateCombine b n := by
  by_cases hn : n = 0
  · subst hn
    simp
  · refine BitVec.eq_of_getLsbD_eq fun k hk => ?_
    simp only [rotateCombine_getLsbD _ hn hk, BitVec.getLsbD_xor]

theorem rotateCombine_one_one : ∀ a : Cell, rotateCombine (rotateCombine a 1) 1 = rotateCombine a 2 := by decide

theorem rotateCombine_two_two : ∀ a : Cell, rotateCombine (rotateCombine a 2) 2 = a := by decide

theorem rotateCombine_one_two :
    ∀ a : Cell, rotateCombine (rotateCombine a 1) 2 = rotateCombine (rotateCombine a 2) 1 := by decide

/-- R91 for `M`, whose rows are one row moved along: counted around the column from its own row, a cell takes in the next three. -/
theorem mixColumns_mixMatrix_cellAt (cs : Cells) (x y : Fin 4) :
    mixColumns cs mixMatrix (cellAt x y) =
      rotateCombine (cs (cellAt (x + 1) y)) 1 ^^^ rotateCombine (cs (cellAt (x + 2) y)) 2
        ^^^ rotateCombine (cs (cellAt (x + 3) y)) 1 := by
  rw [mixColumns_cellAt, mixCell_eq_xor]
  simp only [mixMatrix_cellAt]
  fin_cases x <;> simp
  · exact (BitVec.xor_assoc _ _ _).trans (BitVec.xor_comm _ _)
  · exact (BitVec.xor_comm _ _).trans (BitVec.xor_assoc _ _ _).symm

/-- Six terms in three equal pairs cancel, and `d` is left. -/
theorem xor_pairs_cancel (a b c d e : Cell) :
    (a ^^^ b ^^^ c) ^^^ (b ^^^ d ^^^ e) ^^^ (c ^^^ e ^^^ a) = d := by
  grind

@[simp] theorem cellAt_rowOf_colOf (i : CellIndex) : cellAt (rowOf i) (colOf i) = i :=
  Fin.ext (by simp only [cellAt, rowOf, colOf]; omega)

/-- R92: the mixing undoes itself. In the square of `M` the amounts on the diagonal are 2, 4 and 2, of which the 4 is the cell
itself, and those off it come in equal pairs. -/
theorem mixColumns_mixMatrix_mixColumns (cs : Cells) : mixColumns (mixColumns cs mixMatrix) mixMatrix = cs := by
  funext i
  obtain ⟨x, y, rfl⟩ : ∃ x y, cellAt x y = i := ⟨_, _, cellAt_rowOf_colOf i⟩
  simp only [mixColumns_mixMatrix_cellAt, rotateCombine_xor, add_assoc, Fin.reduceAdd, add_zero, rotateCombine_one_one,
    rotateCombine_two_two, rotateCombine_one_two]
  exact xor_pairs_cancel _ _ _ _ _

/-! ### The rounds (R111) -/

section HeldFamily

variable {s : BitVec 2} (hs : s.toNat < 3)
include hs

theorem backward_forward (x k : Word) (r : Nat) : backward s (forward s x k r) k r = x := by
  by_cases hr : r = 0
  · rw [hr, forward_zero, backward_zero, textToCells_cellsToText, substituteInv_substitute hs, cellsToText_textToCells,
      xor_cancel_right]
  · rw [forward_of_ne_zero s x k hr, backward_of_ne_zero s _ k hr, textToCells_cellsToText, substituteInv_substitute hs,
      mixColumns_mixMatrix_mixColumns, shuffleInv_shuffle, cellsToText_textToCells, xor_cancel_right]

theorem forward_backward (x k : Word) (r : Nat) : forward s (backward s x k r) k r = x := by
  by_cases hr : r = 0
  · rw [hr, backward_zero, forward_zero, xor_cancel_right, textToCells_cellsToText, substitute_substituteInv hs,
      cellsToText_textToCells]
  · rw [backward_of_ne_zero s x k hr, forward_of_ne_zero s _ k hr, xor_cancel_right, textToCells_cellsToText,
      shuffle_shuffleInv, mixColumns_mixMatrix_mixColumns, substitute_substituteInv hs, cellsToText_textToCells]

end HeldFamily

/-- Settles O25: with `r = 0` as with any other `r`, every stage of one round meets its inverse in the other. -/
theorem backwardInvertsForward : Obligations.BackwardInvertsForward := by
  unfold Obligations.BackwardInvertsForward
  exact fun s x k r hs => ⟨backward_forward hs x k r, forward_backward hs x k r⟩

end Sys2Proof.Machine


/-! The key scheduler (44_key_scheduler.md, R121, R122, R123): each stage of `forwardUpdateKey` has its inverse in
`backwardUpdateKey`, and the running tweak counts the updates. -/

namespace Sys2Proof.Machine

/-! ### Exclusive-or through the codec and the scheduler's stages -/

theorem textToCells_xor (a b : Word) : textToCells (a ^^^ b) = xorCells (textToCells a) (textToCells b) :=
  funext fun _ => BitVec.extractLsb'_xor

theorem cellsToText_xorCells (a b : Cells) : cellsToText (xorCells a b) = cellsToText a ^^^ cellsToText b := by
  rw [← cellsToText_textToCells (cellsToText a ^^^ cellsToText b), textToCells_xor, textToCells_cellsToText,
    textToCells_cellsToText]

theorem gather_xorCells (table : Perm16) (a b : Cells) :
    gather table (xorCells a b) = xorCells (gather table a) (gather table b) := rfl

theorem mapAt_xorCells {f : Cell → Cell} (hf : ∀ x y, f (x ^^^ y) = f x ^^^ f y) (ps : List CellIndex) (a b : Cells) :
    mapAt ps f (xorCells a b) = xorCells (mapAt ps f a) (mapAt ps f b) := by
  funext i
  simp only [mapAt_apply, xorCells_apply]
  split
  · exact hf (a i) (b i)
  · rfl

/-! ### The seven positions -/

/-- R121: the seven positions, as the rule writes them. -/
theorem lfsrPositions_contains_iff : ∀ i : CellIndex, lfsrPositions.contains i = true ↔
    (i.val = 0 ∨ i.val = 1 ∨ i.val = 3 ∨ i.val = 4 ∨ i.val = 8 ∨ i.val = 11 ∨ i.val = 13) := by decide

theorem mapAt_lfsrPositions (f : Cell → Cell) (cs : Cells) (i : CellIndex) :
    mapAt lfsrPositions f cs i =
      if i.val = 0 ∨ i.val = 1 ∨ i.val = 3 ∨ i.val = 4 ∨ i.val = 8 ∨ i.val = 11 ∨ i.val = 13
      then f (cs i) else cs i :=
  if_congr (lfsrPositions_contains_iff i) rfl rfl

theorem mapAt_mapAt_of_leftInverse {f g : Cell → Cell} (hinverse : Function.LeftInverse g f) (ps : List CellIndex)
    (cs : Cells) : mapAt ps g (mapAt ps f cs) = cs := by
  funext i
  simp only [mapAt_apply]
  split
  · exact hinverse (cs i)
  · rfl

/-! ### The two updates (R121, R122) -/

theorem textToCells_forwardUpdateKey (t : Word) :
    textToCells (forwardUpdateKey t) = mapAt lfsrPositions lfsr (gather tweakPerm (textToCells t)) :=
  textToCells_cellsToText _

theorem textToCells_backwardUpdateKey (t : Word) :
    textToCells (backwardUpdateKey t) = gather tweakPermInv (mapAt lfsrPositions lfsrInv (textToCells t)) :=
  textToCells_cellsToText _

@[simp] theorem backwardUpdateKey_forwardUpdateKey (t : Word) : backwardUpdateKey (forwardUpdateKey t) = t := by
  rw [backwardUpdateKey, textToCells_forwardUpdateKey, mapAt_mapAt_of_leftInverse lfsrInv_lfsr,
    gather_gather_of_inverse tweakPerm_tweakPermInv, cellsToText_textToCells]

@[simp] theorem forwardUpdateKey_backwardUpdateKey (t : Word) : forwardUpdateKey (backwardUpdateKey t) = t := by
  rw [forwardUpdateKey, textToCells_backwardUpdateKey, gather_gather_of_inverse tweakPermInv_tweakPerm,
    mapAt_mapAt_of_leftInverse lfsr_lfsrInv, cellsToText_textToCells]

theorem forwardUpdateKey_xor (a b : Word) :
    forwardUpdateKey (a ^^^ b) = forwardUpdateKey a ^^^ forwardUpdateKey b := by
  simp only [forwardUpdateKey, textToCells_xor, gather_xorCells, mapAt_xorCells lfsr_xor, cellsToText_xorCells]

/-- A linear map sends `0 = 0 ^^^ 0` to the sum of a value with itself. -/
theorem forwardUpdateKey_zero : forwardUpdateKey 0 = 0 := by
  have hsum := forwardUpdateKey_xor 0 0
  rwa [BitVec.xor_self, BitVec.xor_self] at hsum

theorem backwardUpdateKey_zero : backwardUpdateKey 0 = 0 := by
  have hinverse := backwardUpdateKey_forwardUpdateKey 0
  rwa [forwardUpdateKey_zero] at hinverse

/-- Settles O26: each cell is read through the gather first; every stage is linear, so zero is a fixed point. -/
theorem forwardUpdateKeyCellByCell : Obligations.ForwardUpdateKeyCellByCell := by
  unfold Obligations.ForwardUpdateKeyCellByCell
  refine ⟨fun t i => ?cells, forwardUpdateKey_xor, Function.iterate_fixed forwardUpdateKey_zero, ?examples⟩
  case cells => rw [textToCells_forwardUpdateKey, mapAt_lfsrPositions, gather_apply]
  case examples => decide +kernel

/-- Settles O27: each cell is read through the gather last, so the seven positions are those of the input. -/
theorem backwardUpdateKeyCellByCell : Obligations.BackwardUpdateKeyCellByCell := by
  unfold Obligations.BackwardUpdateKeyCellByCell
  refine ⟨fun t i p hp => ?cells, backwardUpdateKey_forwardUpdateKey, backwardUpdateKey_zero, ?examples⟩
  case cells => rw [textToCells_backwardUpdateKey, gather_apply, hp, mapAt_lfsrPositions]
  case examples => decide +kernel

/-! ### As many of one as of the other (R123) -/

theorem backwardUpdateKey_iterate_forwardUpdateKey_iterate (n : Nat) (t : Word) :
    backwardUpdateKey^[n] (forwardUpdateKey^[n] t) = t :=
  Function.LeftInverse.iterate backwardUpdateKey_forwardUpdateKey n t

/-- Fewer backward than forward updates take back the latest ones. -/
theorem backwardUpdateKey_iterate_forwardUpdateKey_iterate_add (m i : Nat) (t : Word) :
    backwardUpdateKey^[m] (forwardUpdateKey^[m + i] t) = forwardUpdateKey^[i] t := by
  rw [Function.iterate_add_apply, backwardUpdateKey_iterate_forwardUpdateKey_iterate]

/-! ### The running tweak `TK` (R138): only S1, S2 and S6 write it -/

@[simp] theorem runPhase_s0_tk (q : Request) (w : Work) : (runPhase q w .s0).tk = w.tk := rfl
@[simp] theorem runPhase_s1_tk (q : Request) (w : Work) : (runPhase q w .s1).tk = q.t := rfl
@[simp] theorem runPhase_s2_tk (q : Request) (w : Work) (i : Fin 7) :
    (runPhase q w (.s2 i)).tk = forwardUpdateKey w.tk := rfl
@[simp] theorem runPhase_s3_tk (q : Request) (w : Work) : (runPhase q w .s3).tk = w.tk := rfl
@[simp] theorem runPhase_s4_tk (q : Request) (w : Work) : (runPhase q w .s4).tk = w.tk := rfl
@[simp] theorem runPhase_s5_tk (q : Request) (w : Work) : (runPhase q w .s5).tk = w.tk := rfl
@[simp] theorem runPhase_s6_tk (q : Request) (w : Work) (i : Fin 7) :
    (runPhase q w (.s6 i)).tk = backwardUpdateKey w.tk := rfl
@[simp] theorem runPhase_s7_tk (q : Request) (w : Work) : (runPhase q w .s7).tk = w.tk := rfl

@[simp] theorem runPhases_map_s2_tk (q : Request) (is : List (Fin 7)) (w : Work) :
    (runPhases q (is.map .s2) w).tk = forwardUpdateKey^[is.length] w.tk := by
  induction is generalizing w with
  | nil => rfl
  | cons i is ih => rw [List.map_cons, runPhases_cons, ih, runPhase_s2_tk, List.length_cons, Function.iterate_succ_apply]

@[simp] theorem runPhases_map_s6_tk (q : Request) (is : List (Fin 7)) (w : Work) :
    (runPhases q (is.map .s6) w).tk = backwardUpdateKey^[is.length] w.tk := by
  induction is generalizing w with
  | nil => rfl
  | cons i is ih => rw [List.map_cons, runPhases_cons, ih, runPhase_s6_tk, List.length_cons, Function.iterate_succ_apply]

/-! ### The phases before a round (R143) -/

theorem roundIndices_eq_take_finRange (n : BitVec 3) : roundIndices n = (List.finRange 7).take n.toNat := rfl

@[simp] theorem roundIndices_length (n : BitVec 3) : (roundIndices n).length = n.toNat := by
  rw [roundIndices_eq_take_finRange, List.length_take_of_le]
  exact List.length_finRange ▸ Nat.le_of_lt_succ n.isLt

theorem roundIndices_nodup (n : BitVec 3) : (roundIndices n).Nodup :=
  (List.nodup_finRange 7).sublist (List.take_sublist _ _)

theorem roundIndices_getElem {n : BitVec 3} {i : Nat} (hi : i < (roundIndices n).length) :
    ((roundIndices n)[i]).val = i := by
  simp [roundIndices_eq_take_finRange]

/-- The round indices around index `i`: the `i` smaller ones before it, the larger ones after it. -/
theorem roundIndices_split {n : BitVec 3} {i : Fin 7} (hi : i.val < n.toNat) :
    ∃ before after, roundIndices n = before ++ i :: after ∧ before.length = i.val ∧ i ∉ before ∧ i ∉ after := by
  have hlen : i.val < (roundIndices n).length := by rwa [roundIndices_length]
  have hget : (roundIndices n)[i.val] = i := Fin.ext (roundIndices_getElem hlen)
  have hsplit : roundIndices n = (roundIndices n).take i.val ++ i :: (roundIndices n).drop (i.val + 1) := by
    conv_lhs => rw [← List.take_append_drop i.val (roundIndices n), List.drop_eq_getElem_cons hlen, hget]
  have hnodup := roundIndices_nodup n
  rw [hsplit, List.nodup_middle, List.nodup_cons, List.mem_append, not_or] at hnodup
  obtain ⟨⟨hbefore, hafter⟩, -⟩ := hnodup
  exact ⟨_, _, hsplit, List.length_take_of_le hlen.le, hbefore, hafter⟩

theorem takeWhile_ne_append_cons {α : Type} [DecidableEq α] {a : α} {l : List α} (ha : a ∉ l) (r : List α) :
    (l ++ a :: r).takeWhile (· ≠ a) = l := by
  have hne : ∀ b ∈ l, decide (b ≠ a) = true := fun b hb => decide_eq_true (ne_of_mem_of_not_mem hb ha)
  rw [List.takeWhile_append_of_pos hne, List.takeWhile_cons_of_neg (by simp), List.append_nil]

section AroundRound

variable {n : BitVec 3} {i : Fin 7} {before after : List (Fin 7)} (hsplit : roundIndices n = before ++ i :: after)
include hsplit

theorem phases_takeWhile_ne_s2 (hbefore : i ∉ before) :
    (phases n).takeWhile (· ≠ .s2 i) = [Phase.s0, Phase.s1] ++ before.map Phase.s2 := by
  have hphases : phases n = ([Phase.s0, Phase.s1] ++ before.map Phase.s2) ++ Phase.s2 i ::
      (after.map Phase.s2 ++ [Phase.s3, Phase.s4, Phase.s5] ++ (roundIndices n).reverse.map Phase.s6 ++ [Phase.s7]) := by
    simp [phases, hsplit]
  rw [hphases]
  exact takeWhile_ne_append_cons (by simp [hbefore]) _

theorem phases_takeWhile_ne_s6 (hafter : i ∉ after) :
    (phases n).takeWhile (· ≠ .s6 i) = [Phase.s0, Phase.s1] ++ (roundIndices n).map Phase.s2 ++
      [Phase.s3, Phase.s4, Phase.s5] ++ after.reverse.map Phase.s6 := by
  have hphases : phases n = ([Phase.s0, Phase.s1] ++ (roundIndices n).map Phase.s2 ++
      [Phase.s3, Phase.s4, Phase.s5] ++ after.reverse.map Phase.s6) ++ Phase.s6 i ::
        (before.reverse.map Phase.s6 ++ [Phase.s7]) := by
    simp [phases, hsplit]
  rw [hphases]
  exact takeWhile_ne_append_cons (by simp [hafter]) _

end AroundRound

/-! ### The tweak of a round (R123) -/

/-- Forward round `i` meets the tweak after `i` forward updates. -/
theorem tk_before_s2 (q : Request) (w : Work) {i : Fin 7} (hi : i.val < q.rounds.toNat) :
    (runPhases q ((phases q.rounds).takeWhile (· ≠ .s2 i)) w).tk = forwardUpdateKey^[i.val] q.t := by
  obtain ⟨before, after, hsplit, hlen, hbefore, -⟩ := roundIndices_split hi
  rw [phases_takeWhile_ne_s2 hsplit hbefore]
  simp [hlen]

/-- The phases from S3 to S5 leave the tweak as the last forward round left it. -/
theorem tk_after_centre (q : Request) (w : Work) :
    (runPhases q ([Phase.s0, Phase.s1] ++ (roundIndices q.rounds).map Phase.s2 ++ [Phase.s3, Phase.s4, Phase.s5]) w).tk =
      forwardUpdateKey^[q.rounds.toNat] q.t := by
  simp

/-- Backward round `i` steps the tweak back to where forward round `i` met it: it makes the backward update number
`ROUNDS - i`, after `ROUNDS` forward ones. -/
theorem tk_after_s6 (q : Request) (w : Work) {i : Fin 7} (hi : i.val < q.rounds.toNat) :
    (runPhases q ((phases q.rounds).takeWhile (· ≠ .s6 i) ++ [.s6 i]) w).tk = forwardUpdateKey^[i.val] q.t := by
  obtain ⟨before, after, hsplit, hlen, -, hafter⟩ := roundIndices_split hi
  have hrounds : q.rounds.toNat = (after.length + 1) + i.val := by
    rw [← roundIndices_length, hsplit, List.length_append, List.length_cons, hlen, Nat.add_comm]
  rw [phases_takeWhile_ne_s6 hsplit hafter, runPhases_append, runPhases_cons, runPhases_nil, runPhase_s6_tk,
    runPhases_append, runPhases_map_s6_tk, tk_after_centre, List.length_reverse,
    ← Function.iterate_succ_apply' backwardUpdateKey, hrounds, backwardUpdateKey_iterate_forwardUpdateKey_iterate_add]

/-- Settles O28: the stages undo each other, hence the iterates; both rounds `i` meet the tweak after `i` forward updates. -/
theorem keyUpdatesAreExactlyReversible : Obligations.KeyUpdatesAreExactlyReversible := by
  unfold Obligations.KeyUpdatesAreExactlyReversible
  exact ⟨backwardUpdateKey_forwardUpdateKey, forwardUpdateKey_backwardUpdateKey,
    backwardUpdateKey_iterate_forwardUpdateKey_iterate,
    fun q w i hi => (tk_after_s6 q w hi).trans (tk_before_s2 q w hi).symm⟩

end Sys2Proof.Machine


/-! The reflection core (45_reflection_core.md, R130): the key enters between the mixing and the un-shuffling, so `pseudoReflect`
is read through `shuffleInv` on both. -/

namespace Sys2Proof.Machine

theorem textToCells_zero : textToCells 0 = fun _ => 0 :=
  funext fun _ => BitVec.extractLsb'_zero

theorem xorCells_zero_left (cs : Cells) : xorCells (fun _ => 0) cs = cs :=
  funext fun _ => BitVec.zero_xor

theorem xorCells_zero_right (cs : Cells) : xorCells cs (fun _ => 0) = cs :=
  funext fun _ => BitVec.xor_zero

theorem shuffle_zero : shuffle (fun _ => 0) = fun _ => 0 := rfl

theorem textToCells_pseudoReflect (x k : Word) :
    textToCells (pseudoReflect x k) =
      shuffleInv (xorCells (mixColumns (shuffle (textToCells x)) mixMatrix) (textToCells k)) :=
  textToCells_cellsToText _

/-- Cell `i` of the result is cell `shufflePermInv[i]` of the keyed cells, where the mixed cell and the key cell have that same
index. -/
theorem textToCells_pseudoReflect_apply (x k : Word) (i : CellIndex) :
    textToCells (pseudoReflect x k) i =
      mixColumns (shuffle (textToCells x)) mixMatrix shufflePermInv[i] ^^^ textToCells k shufflePermInv[i] := by
  rw [textToCells_pseudoReflect, shuffleInv, gather_apply, xorCells_apply]

/-- The zero block stays zero up to the XOR, so only the key is un-shuffled. -/
theorem pseudoReflect_zero_block (k : Word) : pseudoReflect 0 k = cellsToText (shuffleInv (textToCells k)) := by
  rw [pseudoReflect, textToCells_zero, shuffle_zero, mixColumns_zero, xorCells_zero_left]

theorem pseudoReflect_zero_key (x : Word) :
    pseudoReflect x 0 = cellsToText (shuffleInv (mixColumns (shuffle (textToCells x)) mixMatrix)) := by
  rw [pseudoReflect, textToCells_zero, xorCells_zero_right]

@[simp] theorem runPhase_s4_is (q : Request) (w : Work) : (runPhase q w .s4).is = pseudoReflect w.is w.keys.rk := rfl
@[simp] theorem keysForDirection_encrypt_rk (w0 k0 : Word) : (keysForDirection w0 k0 .encrypt).rk = k0 := rfl
@[simp] theorem keysForDirection_decrypt_rk (w0 k0 : Word) : (keysForDirection w0 k0 .decrypt).rk = mixKey k0 := rfl

/-- Settles O30: the un-shuffling reads mixed cells and key cells at one index; a zero block or a zero key drops out of the XOR. -/
theorem pseudoReflectKeysTheMixedCells : Obligations.PseudoReflectKeysTheMixedCells := by
  unfold Obligations.PseudoReflectKeysTheMixedCells
  refine ⟨textToCells_pseudoReflect_apply, fun q w => ⟨runPhase_s4_is q w, ?encryptKey, ?decryptKey⟩,
    pseudoReflect_zero_block, pseudoReflect_zero_key, ?examples⟩
  case encryptKey => exact keysForDirection_encrypt_rk q.w0 q.k0
  case decryptKey => exact keysForDirection_decrypt_rk q.w0 q.k0
  case examples => decide +kernel

end Sys2Proof.Machine


/-! The key derivations (46_cipher_controller.md section 1, R135, R136): `ortho` moves every bit to a place of its own and adds
one of them a second time; `mixKey` is the mixing of R92 on the cells of the key. -/

namespace Sys2Proof.Machine

/-! ### The second whitening key (R135) -/

theorem rotateRight1_eq_rotateRight (w : Word) : rotateRight1 w = w.rotateRight 1 := rfl

/-- R135: bit `i` is the next bit of `w` around the end, and bit 0 has the top bit of `w` added. -/
theorem ortho_getLsbD (w : Word) {i : Nat} (hi : i < 64) :
    (ortho w).getLsbD i = (w.getLsbD ((i + 1) % 64) ^^ (decide (i = 0) && w.getLsbD 63)) := by
  have htop : (w >>> 63).getLsbD i = (decide (i = 0) && w.getLsbD 63) := by
    rw [BitVec.getLsbD_ushiftRight]
    obtain rfl | hpos := Nat.eq_zero_or_pos i
    · rfl
    · rw [BitVec.getLsbD_of_ge w _ (by omega), decide_eq_false hpos.ne', Bool.false_and]
  have hrotated : (rotateRight1 w).getLsbD i = w.getLsbD ((i + 1) % 64) := by
    rw [rotateRight1_eq_rotateRight, BitVec.getLsbD_rotateRight]
    obtain hbelow | rfl : i < 63 ∨ i = 63 := by omega
    · have hnext : (i + 1) % 64 = 1 + i := by omega
      simp [hbelow, hnext]
    · rfl
  rw [ortho, BitVec.getLsbD_xor, hrotated, htop]

/-- Each bit of the result is a sum of bits, so it distributes over exclusive-or. -/
theorem ortho_xor (a b : Word) : ortho (a ^^^ b) = ortho a ^^^ ortho b := by
  refine BitVec.eq_of_getLsbD_eq fun i hi => ?_
  simp only [ortho_getLsbD _ hi, BitVec.getLsbD_xor, Bool.and_xor_distrib_left, Bool.xor_assoc, Bool.xor_left_comm]

/-- Of the bits of `w`, all but bit 1 stand alone in a bit of `ortho w`; the top bit among them takes itself out of the one sum
that holds bit 1. -/
theorem ortho_injective : Function.Injective ortho := by
  intro a b heq
  have hsum (i : Nat) (hi : i < 64) : (a.getLsbD ((i + 1) % 64) ^^ (decide (i = 0) && a.getLsbD 63)) =
      (b.getLsbD ((i + 1) % 64) ^^ (decide (i = 0) && b.getLsbD 63)) := by
    rw [← ortho_getLsbD a hi, ← ortho_getLsbD b hi, heq]
  have halone (i : Nat) (hi : i < 64) (h1 : i ≠ 1) : a.getLsbD i = b.getLsbD i := by
    have hplace : ((i + 63) % 64 + 1) % 64 = i := by omega
    have hnonzero : (i + 63) % 64 ≠ 0 := by omega
    simpa [hplace, hnonzero] using hsum ((i + 63) % 64) (Nat.mod_lt _ (by decide))
  refine BitVec.eq_of_getLsbD_eq fun i hi => ?_
  obtain rfl | h1 := eq_or_ne i 1
  · have hbottom := hsum 0 (by decide)
    rwa [halone 63 (by decide) (by decide), Bool.xor_left_inj] at hbottom
  · exact halone i hi h1

/-- Settles O32: one equation gives every bit of `ortho`; linearity and injectivity follow from it, and an injective map of a
finite type to itself is bijective. -/
theorem orthoBitByBit : Obligations.OrthoBitByBit := by
  unfold Obligations.OrthoBitByBit
  refine ⟨fun _ => rfl, fun w => ⟨?top, ?bottom, fun i h1 h62 => ?middle⟩,
    Finite.injective_iff_bijective.mp ortho_injective, ortho_xor, ?examples⟩
  case top => simpa using ortho_getLsbD w (i := 63) (by decide)
  case bottom => simpa using ortho_getLsbD w (i := 0) (by decide)
  case middle =>
    have hplace : (i + 1) % 64 = i + 1 := Nat.mod_eq_of_lt (by omega)
    have hnonzero : i ≠ 0 := by omega
    simpa [hplace, hnonzero] using ortho_getLsbD w (i := i) (by omega)
  case examples => decide +kernel

/-! ### The mixed key (R136) -/

@[simp] theorem textToCells_mixKey (k : Word) : textToCells (mixKey k) = mixColumns (textToCells k) mixMatrix :=
  textToCells_cellsToText _

@[simp] theorem mixKey_mixKey (k : Word) : mixKey (mixKey k) = k := by
  rw [mixKey, textToCells_mixKey, mixColumns_mixMatrix_mixColumns, cellsToText_textToCells]

/-- Settles O33: the codec hands the mixed cells over as they are, and the mixing undoes itself (R92). -/
theorem mixKeyUndoesItself : Obligations.MixKeyUndoesItself := by
  unfold Obligations.MixKeyUndoesItself
  refine ⟨fun k => congrFun (textToCells_mixKey k), mixKey_mixKey, ?examples⟩
  decide +kernel

end Sys2Proof.Machine


/-! The round sequence inverts itself (R144): run on its own output with the outer keys exchanged, a reflection key that inverts the
reflection, and `alpha` added to the round key, every step of `Source.eightSteps` meets its inverse. -/

namespace Sys2Proof.Machine

/-! ### The reflection (R131) -/

theorem mixColumns_xorCells (a b : Cells) (m : Vector RotAmount 16) :
    mixColumns (xorCells a b) m = xorCells (mixColumns a m) (mixColumns b m) := by
  funext i
  simp only [mixColumns_apply, xorCells_apply, mixCell_eq_xor, rotateCombine_xor]
  ac_rfl

theorem xorCells_cancel_right (a b : Cells) : xorCells (xorCells a b) b = a :=
  funext fun i => xor_cancel_right (a i) (b i)

/-- R131: the key that the first reflection adds after the mixing reaches the XOR of the second one mixed once. -/
theorem pseudoReflect_pseudoReflect_mixKey (x k : Word) : pseudoReflect (pseudoReflect x k) (mixKey k) = x := by
  rw [pseudoReflect, textToCells_pseudoReflect, shuffle_shuffleInv, mixColumns_xorCells, mixColumns_mixMatrix_mixColumns,
    textToCells_mixKey, xorCells_cancel_right, shuffleInv_shuffle, cellsToText_textToCells]

theorem pseudoReflect_mixKey_pseudoReflect (x k : Word) : pseudoReflect (pseudoReflect x (mixKey k)) k = x := by
  simpa using pseudoReflect_pseudoReflect_mixKey x (mixKey k)

/-! ### The loops -/

theorem forwardLoop_snd (s : BitVec 2) (k b t : Word) (n : Nat) :
    (Source.forwardLoop s k b t n).2 = forwardUpdateKey^[n] t := by
  induction n with
  | zero => rfl
  | succ n ih => rw [Function.iterate_succ_apply', ← ih]; rfl

/-- The round key of a forward round is that of the backward round of the same index, once one of them has `alpha` added. -/
theorem roundKey_xor_alpha (k t c : Word) : (k ^^^ alpha) ^^^ t ^^^ c = k ^^^ t ^^^ c ^^^ alpha := by
  ac_rfl

section HeldFamily

variable {s : BitVec 2} (hs : s.toNat < 3)
include hs

/-- The backward rounds take back the forward rounds, the latest first. -/
theorem backwardLoop_forwardLoop (k b t : Word) (n : Nat) :
    Source.backwardLoop s k n (Source.forwardLoop s (k ^^^ alpha) b t n) = (b, t) := by
  induction n with
  | zero => rfl
  | succ n ih =>
    simpa only [Source.forwardLoop, Source.backwardLoop, backwardUpdateKey_forwardUpdateKey, roundKey_xor_alpha,
      backward_forward hs] using ih

/-- The forward rounds take back the backward rounds, and they pass through the same tweaks. -/
theorem forwardLoop_backwardLoop (k b t : Word) (n : Nat) :
    Source.forwardLoop s (k ^^^ alpha) (Source.backwardLoop s k n (b, forwardUpdateKey^[n] t)).1 t n =
      (b, forwardUpdateKey^[n] t) := by
  induction n generalizing b with
  | zero => rfl
  | succ n ih =>
    simp only [Source.forwardLoop, Source.backwardLoop, Function.iterate_succ_apply', backwardUpdateKey_forwardUpdateKey, ih,
      roundKey_xor_alpha, forward_backward hs]

/-! ### The eight steps (R144) -/

/-- R144, step by step: S1 meets S7, forward rounds meet backward rounds, S3 meets S5, and S4 meets S4. -/
theorem eightSteps_eightSteps {r r' : Word} (hreflect : ∀ y : Word, pseudoReflect (pseudoReflect y r) r' = y)
    (n : BitVec 3) (x t a b p : Word) :
    Source.eightSteps n s (Source.eightSteps n s x t a b r p) t b a r' (p ^^^ alpha) = x := by
  have hrounds := backwardLoop_forwardLoop hs (p ^^^ alpha) (x ^^^ a) t n.toNat
  rw [xor_cancel_right] at hrounds
  simp only [Source.eightSteps, forwardLoop_snd, xor_cancel_right, forwardLoop_backwardLoop hs, forward_backward hs,
    hreflect, backward_forward hs]
  rw [← forwardLoop_snd s p (x ^^^ a), hrounds, xor_cancel_right]

theorem decrypt_encrypt (n : BitVec 3) (x t w0 k0 : Word) :
    Source.decrypt n s (Source.encrypt n s x t w0 k0) t w0 k0 = x :=
  eightSteps_eightSteps hs (pseudoReflect_pseudoReflect_mixKey · k0) n x t w0 (ortho w0) k0

theorem encrypt_decrypt (n : BitVec 3) (x t w0 k0 : Word) :
    Source.encrypt n s (Source.decrypt n s x t w0 k0) t w0 k0 = x := by
  have hround := eightSteps_eightSteps hs (pseudoReflect_mixKey_pseudoReflect · k0) n x t (ortho w0) w0 (k0 ^^^ alpha)
  rwa [xor_cancel_right] at hround

end HeldFamily

end Sys2Proof.Machine


/-! The cipher commands (46_cipher_controller.md sections 2, 3 and 5): the sequencer's phases are the source's loops, so ENC and DEC
answer the source's `encrypt` and `decrypt`, and the round trip of R144 is theirs. -/

namespace Sys2Proof.Machine

/-! ### The phases as loops (R138) -/

theorem roundConstant_eq_c (i : Fin 7) : roundConstant i = Source.c i.val :=
  (dif_pos (by omega)).symm

theorem finRange_take_succ {n : Nat} (hn : n < 7) :
    (List.finRange 7).take (n + 1) = (List.finRange 7).take n ++ [⟨n, hn⟩] := by
  rw [List.take_succ_eq_append_getElem (by simpa using hn), List.getElem_finRange]
  rfl

theorem runPhases_forward_rounds (q : Request) (w : Work) {n : Nat} (hn : n ≤ 7) :
    runPhases q (((List.finRange 7).take n).map .s2) w =
      { w with
        is := (Source.forwardLoop q.sbox w.keys.pk w.is w.tk n).1
        tk := (Source.forwardLoop q.sbox w.keys.pk w.is w.tk n).2 } := by
  induction n with
  | zero => rfl
  | succ n ih =>
    rw [finRange_take_succ hn, List.map_append, runPhases_append, ih (by omega)]
    simp [runPhase, Source.forwardLoop, roundConstant_eq_c]

theorem runPhases_backward_rounds (q : Request) (w : Work) {n : Nat} (hn : n ≤ 7) :
    runPhases q (((List.finRange 7).take n).reverse.map .s6) w =
      { w with
        is := (Source.backwardLoop q.sbox w.keys.pk n (w.is, w.tk)).1
        tk := (Source.backwardLoop q.sbox w.keys.pk n (w.is, w.tk)).2 } := by
  induction n generalizing w with
  | zero => rfl
  | succ n ih =>
    rw [finRange_take_succ hn, List.reverse_append, List.map_append, runPhases_append, ih _ (by omega)]
    simp [runPhase, Source.backwardLoop, roundConstant_eq_c]

theorem sequence_eq_eightSteps (q : Request) :
    sequence q = Source.eightSteps q.rounds q.sbox q.x q.t (keysForDirection q.w0 q.k0 q.dir).oa
      (keysForDirection q.w0 q.k0 q.dir).ob (keysForDirection q.w0 q.k0 q.dir).rk (keysForDirection q.w0 q.k0 q.dir).pk := by
  have hn : q.rounds.toNat ≤ 7 := Nat.le_of_lt_succ q.rounds.isLt
  rw [sequence, phases, roundIndices_eq_take_finRange]
  simp only [runPhases_append, runPhases_cons, runPhases_nil, runPhases_forward_rounds q _ hn,
    runPhases_backward_rounds q _ hn]
  rfl

/-! ### The answers (R139, R140) -/

theorem exec_enc_eq_encrypt (x t w0 k0 : Word) (s : State) :
    exec (.enc x t w0 k0) s = .next { s with response := some (Source.encrypt s.rounds s.sbox x t w0 k0) } := by
  rw [exec_enc, sequence_eq_eightSteps]
  rfl

theorem exec_dec_eq_decrypt (x t w0 k0 : Word) (s : State) :
    exec (.dec x t w0 k0) s = .next { s with response := some (Source.decrypt s.rounds s.sbox x t w0 k0) } := by
  rw [exec_dec, sequence_eq_eightSteps]
  rfl

theorem responds_enc {x t w0 k0 out : Word} {s : State} (h : Source.encrypt s.rounds s.sbox x t w0 k0 = out) :
    Responds (.enc x t w0 k0) s out :=
  ⟨_, exec_enc_eq_encrypt x t w0 k0 s, congrArg some h⟩

theorem responds_dec {x t w0 k0 out : Word} {s : State} (h : Source.decrypt s.rounds s.sbox x t w0 k0 = out) :
    Responds (.dec x t w0 k0) s out :=
  ⟨_, exec_dec_eq_decrypt x t w0 k0 s, congrArg some h⟩

theorem sbox_lt_of_legal {s : State} (hs : Legal s) : s.sbox.toNat < 3 :=
  Nat.lt_succ_of_le hs.2

theorem encrypt_bijective {s : BitVec 2} (hs : s.toNat < 3) (n : BitVec 3) (t w0 k0 : Word) :
    Function.Bijective fun x => Source.encrypt n s x t w0 k0 :=
  Function.bijective_iff_has_inverse.mpr
    ⟨fun y => Source.decrypt n s y t w0 k0, (decrypt_encrypt hs n · t w0 k0), (encrypt_decrypt hs n · t w0 k0)⟩

/-- Settles O38: the phases compute the source's `encrypt`, which `decrypt` inverts on both sides. -/
theorem encRespondsAndWritesNoState : Obligations.EncRespondsAndWritesNoState := by
  unfold Obligations.EncRespondsAndWritesNoState
  refine ⟨exec_enc_eq_encrypt, responds_enc ?zeroOperands, rfl,
    fun s t w0 k0 hs => encrypt_bijective (sbox_lt_of_legal hs) s.rounds t w0 k0, responds_enc ?sourceVector⟩
  case zeroOperands | sourceVector => decide +kernel

/-- Settles O39: the phases compute the source's `decrypt`, whose steps are the inverses of those of `encrypt`. -/
theorem decRespondsAndInvertsEnc : Obligations.DecRespondsAndInvertsEnc := by
  unfold Obligations.DecRespondsAndInvertsEnc
  refine ⟨exec_dec_eq_decrypt, fun s x t w0 k0 hs => ⟨decrypt_encrypt (sbox_lt_of_legal hs) s.rounds x t w0 k0,
    encrypt_decrypt (sbox_lt_of_legal hs) s.rounds x t w0 k0⟩, responds_dec ?otherRounds, responds_dec ?sourceVector⟩
  case otherRounds | sourceVector => decide +kernel

/-- Settles O44: the second command finds the registers of the first, since a cipher command writes none; program P4 sets seven
rounds after an ENC with five. -/
theorem decAfterEncGivesThePlaintextBack : Obligations.DecAfterEncGivesThePlaintextBack := by
  unfold Obligations.DecAfterEncGivesThePlaintextBack
  refine ⟨fun s x t w0 k0 hs => ?decAfterEnc, fun s x t w0 k0 hs => ?encAfterDec, ?otherRounds⟩
  case decAfterEnc =>
    exact ⟨_, _, _, exec_enc_eq_encrypt x t w0 k0 s, rfl, exec_dec_eq_decrypt _ t w0 k0 _,
      congrArg some (decrypt_encrypt (sbox_lt_of_legal hs) s.rounds x t w0 k0)⟩
  case encAfterDec =>
    exact ⟨_, _, _, exec_dec_eq_decrypt x t w0 k0 s, rfl, exec_enc_eq_encrypt _ t w0 k0 _,
      congrArg some (encrypt_decrypt (sbox_lt_of_legal hs) s.rounds x t w0 k0)⟩
  case otherRounds =>
    refine ⟨State.reset, Source.testBlock, Source.testTweak, Source.testW0, Source.testK0, _, _, _, _, _, by decide,
      exec_enc_eq_encrypt _ _ _ _ _, rfl, exec_setrounds _ _, exec_dec_eq_decrypt _ _ _ _ _, rfl, ?_⟩
    decide +kernel

/-! ### Nothing else reaches a response (R145) -/

theorem exec_setResponse (i : Instr) (s : State) (r : Option Word) : exec i { s with response := r } = exec i s := by
  cases i <;> rfl

/-- No step reads the response of an earlier one, and every step overwrites it. -/
theorem step_setResponse (s : State) (r : Option Word) : step { s with response := r } = step s := by
  obtain ⟨rounds, sbox, response, input⟩ := s
  cases input with
  | nil => rfl
  | cons e rest =>
    cases e with
    | command p => exact exec_setResponse (decode p) ⟨rounds, sbox, response, rest⟩ r
    | reset => rfl

theorem answers_setResponse (k : Nat) (s : State) (r : Option Word) : answers k { s with response := r } = answers k s := by
  cases k with
  | zero => rfl
  | succ k => rw [answers, answers, step_setResponse]

theorem eq_setResponse {s u : State} (hr : s.rounds = u.rounds) (hs : s.sbox = u.sbox) (hi : s.input = u.input) :
    s = { u with response := s.response } :=
  state_eq_of_fields hr hs rfl hi

/-- A cipher command takes the two registers and its operands, and nothing else, to its answer. -/
theorem exists_responds_of_registers_eq {i : Instr} (hi : isCipher i = true) {s u : State} (hr : s.rounds = u.rounds)
    (hs : s.sbox = u.sbox) : ∃ out, Responds i s out ∧ Responds i u out := by
  cases i with
  | enc x t w0 k0 => exact ⟨_, responds_enc (by rw [hr, hs]), responds_enc rfl⟩
  | dec x t w0 k0 => exact ⟨_, responds_dec (by rw [hr, hs]), responds_dec rfl⟩
  | setrounds n => simp [isCipher] at hi
  | setsbox n => simp [isCipher] at hi

/-- Settles O45: states with the same registers and events differ in the response alone, which the first step overwrites. -/
theorem responsesDependOnOperandsAndRegistersOnly : Obligations.ResponsesDependOnOperandsAndRegistersOnly := by
  unfold Obligations.ResponsesDependOnOperandsAndRegistersOnly
  refine ⟨fun i s u hi hr hs => exists_responds_of_registers_eq hi hr hs, fun k s u hr hs hi => ?_⟩
  rw [eq_setResponse hr hs hi, answers_setResponse]

end Sys2Proof.Machine


/-! The command port (30_encoding.md): each port is read back from its own place in the word, and the four opcodes select the
four commands. -/

namespace Sys2Proof.Machine

/-! ### The word of the ports (log entry 4) -/

theorem ports_eq_of_fields {p q : Ports} (hop : p.op = q.op) (hx : p.x = q.x) (ht : p.t = q.t) (hw0 : p.w0 = q.w0)
    (hk0 : p.k0 = q.k0) (hn : p.n = q.n) : p = q := by
  cases p
  cases q
  simp_all

/-- `portsToBits` at the width its parts add up to, which is `portBits` by computation. -/
def stackedPorts (p : Ports) : BitVec (32 + (64 + (64 + (64 + (64 + 2))))) :=
  p.n ++ (p.k0 ++ (p.w0 ++ (p.t ++ (p.x ++ p.op))))

/-- A place inside the upper part of an append is read from that part, one inside the lower part from the other. -/
theorem stackedPorts_extractLsb' (p : Ports) :
    (stackedPorts p).extractLsb' 0 2 = p.op ∧ (stackedPorts p).extractLsb' 2 64 = p.x ∧
    (stackedPorts p).extractLsb' 66 64 = p.t ∧ (stackedPorts p).extractLsb' 130 64 = p.w0 ∧
    (stackedPorts p).extractLsb' 194 64 = p.k0 ∧ (stackedPorts p).extractLsb' 258 32 = p.n := by
  simp (disch := decide) only [stackedPorts, BitVec.extractLsb'_append_eq_of_add_le, BitVec.extractLsb'_append_eq_of_le]
  simp

/-- The layout places the six ports one above another, so reading the places back gives every port. -/
theorem portsOfBits_portsToBits (p : Ports) : portsOfBits (portsToBits p) = p := by
  obtain ⟨hop, hx, ht, hw0, hk0, hn⟩ := stackedPorts_extractLsb' p
  exact ports_eq_of_fields hop hx ht hw0 hk0 hn

theorem decode_encode (i : Instr) : decode (encode i) = i := by
  cases i with
  | enc x t w0 k0 => exact (Laws.PortRoundTrip.enc x t w0 k0).2
  | dec x t w0 k0 => exact (Laws.PortRoundTrip.dec x t w0 k0).2
  | setrounds n => exact (Laws.PortRoundTrip.setrounds n).2
  | setsbox n => exact (Laws.PortRoundTrip.setsbox n).2

/-- Settles O7: the ports survive the word, and the command survives the ports. -/
theorem decodeOfEncodeIsTheCommand : Obligations.DecodeOfEncodeIsTheCommand := by
  unfold Obligations.DecodeOfEncodeIsTheCommand
  intro i
  rw [decodeBits, encodeBits, portsOfBits_portsToBits, decode_encode]

/-! ### The two formats (R47, R48) -/

theorem op_eq_zero_or_one {op : BitVec 2} : op.toNat < 2 → op = 0b00 ∨ op = 0b01 := by
  revert op
  decide

theorem op_eq_two_or_three {op : BitVec 2} : 2 ≤ op.toNat → op = 0b10 ∨ op = 0b11 := by
  revert op
  decide

/-- Format K: `op` and the four `u64` ports are kept, and `N` is not read. -/
theorem encode_decode_of_lt {p : Ports} (h : p.op.toNat < 2) : encode (decode p) = { p with n := 0 } := by
  obtain ⟨op, x, t, w0, k0, n⟩ := p
  obtain rfl | rfl : op = 0b00 ∨ op = 0b01 := op_eq_zero_or_one h
  · simp [decode, encode]
  · simp [decode, encode]

/-- Format C: `op` and `N` are kept, and the four `u64` ports are not read. -/
theorem encode_decode_of_ge {p : Ports} (h : 2 ≤ p.op.toNat) :
    encode (decode p) = { p with x := 0, t := 0, w0 := 0, k0 := 0 } := by
  obtain ⟨op, x, t, w0, k0, n⟩ := p
  obtain rfl | rfl : op = 0b10 ∨ op = 0b11 := op_eq_two_or_three h
  · simp [decode, encode]
  · simp [decode, encode]

theorem encode_injective : Function.Injective encode :=
  Function.LeftInverse.injective decode_encode

theorem decode_setN_of_lt {p : Ports} (h : p.op.toNat < 2) (n : BitVec 32) : decode { p with n := n } = decode p :=
  have h' : ({ p with n := n } : Ports).op.toNat < 2 := h
  encode_injective ((encode_decode_of_lt h').trans (encode_decode_of_lt h).symm)

theorem decode_setWords_of_ge {p : Ports} (h : 2 ≤ p.op.toNat) (x t w0 k0 : Word) :
    decode { p with x := x, t := t, w0 := w0, k0 := k0 } = decode p :=
  have h' : 2 ≤ ({ p with x := x, t := t, w0 := w0, k0 := k0 } : Ports).op.toNat := h
  encode_injective ((encode_decode_of_ge h').trans (encode_decode_of_ge h).symm)

/-- Settles O8: the ports of the decoded command are those of its format, and a command is determined by its ports. -/
theorem decodeKeepsNamedPortsAndIgnoresTheOthers : Obligations.DecodeKeepsNamedPortsAndIgnoresTheOthers := by
  unfold Obligations.DecodeKeepsNamedPortsAndIgnoresTheOthers
  refine ⟨fun p => ?opcode, fun p h => ?formatK, fun p h => ?formatC⟩
  case opcode =>
    obtain h | h := Nat.lt_or_ge p.op.toNat 2
    · rw [encode_decode_of_lt h]
    · rw [encode_decode_of_ge h]
  case formatK =>
    rw [encode_decode_of_lt h]
    exact ⟨rfl, rfl, rfl, rfl, decode_setN_of_lt h⟩
  case formatC =>
    rw [encode_decode_of_ge h]
    exact ⟨rfl, decode_setWords_of_ge h⟩

/-- Settles O9: the table's words and the programs' ports, each decoded. -/
theorem opcodesDecodeToTheirCommands : Obligations.OpcodesDecodeToTheirCommands := by
  unfold Obligations.OpcodesDecodeToTheirCommands
  decide +kernel

end Sys2Proof.Machine


/-! The codec, the tables and the rounds, cell by cell (40_cell_codec.md to 43_round_function.md): the worked values, and what the
lemmas of the earlier parts say of one cell. -/

namespace Sys2Proof.Machine

/-! ### The codec (R60 to R64) -/

/-- R60 as corrected by C1: byte `i` from the right is two neighbouring cells, the first of them above the second. -/
theorem cellOf_append_cellOf (b : Word) (i : Fin 8) :
    cellOf b ⟨2 * (7 - i.val), by omega⟩ ++ cellOf b ⟨2 * (7 - i.val) + 1, by omega⟩ = b.extractLsb' (8 * i.val) 8 := by
  refine BitVec.eq_of_getLsbD_eq fun k hk => ?_
  rw [BitVec.getLsbD_append, BitVec.getLsbD_extractLsb', decide_eq_true hk, Bool.true_and]
  split
  · next hlow =>
    have hplace : 60 - 4 * (2 * (7 - i.val) + 1) + k = 8 * i.val + k := by omega
    rw [cellOf_getLsbD b _ hlow, hplace]
  · next hhigh =>
    have hplace : 60 - 4 * (2 * (7 - i.val)) + (k - 4) = 8 * i.val + k := by omega
    rw [cellOf_getLsbD b _ (by omega), hplace]

/-- Settles O11: the places of the cells, read by bits and by bytes. -/
theorem cellZeroIsTheTopDigit : Obligations.CellZeroIsTheTopDigit := by
  unfold Obligations.CellZeroIsTheTopDigit
  refine ⟨fun b j k hk => cellOf_getLsbD b j hk, cellOf_append_cellOf, ?ownIndices⟩
  decide +kernel

/-- Settles O12: extraction distributes over exclusive-or, and joining is its inverse. -/
theorem xorCommutesWithTheCodec : Obligations.XorCommutesWithTheCodec := by
  unfold Obligations.XorCommutesWithTheCodec
  exact ⟨fun a b => congrFun (textToCells_xor a b), cellsToText_xorCells⟩

/-! ### The tables (R79) and the cell algebra -/

/-- Settles O13: the laws of the tables, and the mixing that undoes itself. -/
theorem tablesHaveTheirProperties : Obligations.TablesHaveTheirProperties := by
  unfold Obligations.TablesHaveTheirProperties
  refine ⟨fun s v => sboxInv_sboxTab s (BitVec.ofFin v), fun s v => sboxTab_sboxInv s (BitVec.ofFin v),
    fun v => ⟨sboxTab_zero_involutive (BitVec.ofFin v), sboxTab_one_involutive (BitVec.ofFin v)⟩,
    sboxTab_two_not_involutive, fun i => ⟨shufflePermInv_shufflePerm i, shufflePerm_shufflePermInv i⟩,
    fun i => ⟨tweakPermInv_tweakPerm i, tweakPerm_tweakPermInv i⟩, fun i => ?entries, ?odd,
    mixColumns_mixMatrix_mixColumns⟩
  case entries =>
    have hentry := mixMatrix_entry_lt i
    omega
  case odd => rw [BitVec.getLsbD, Nat.testBit_zero, alpha_odd, decide_eq_true rfl]

/-- Settles O18: a rotation moves bits, and the sum over a column distributes. -/
theorem mixColumnsIsLinear : Obligations.MixColumnsIsLinear := by
  unfold Obligations.MixColumnsIsLinear
  exact ⟨rotateCombine_xor, mixColumns_xorCells⟩

/-- Settles O14: ten blocks, evaluated. -/
theorem tableDrivenMapsPrintTheTables : Obligations.TableDrivenMapsPrintTheTables := by
  unfold Obligations.TableDrivenMapsPrintTheTables
  decide +kernel

/-- Settles O20: both tables and the orbit, evaluated. -/
theorem lfsrTablesEntryByEntry : Obligations.LfsrTablesEntryByEntry := by
  unfold Obligations.LfsrTablesEntryByEntry
  decide +kernel

/-! ### The rounds (R109, R110) -/

theorem textToCells_forward_zero (s : BitVec 2) (b k : Word) (j : CellIndex) :
    textToCells (forward s b k 0) j = sboxLookup s (textToCells b j ^^^ textToCells k j) := by
  rw [forward_zero, textToCells_cellsToText, substitute_apply, textToCells_xor, xorCells_apply]

theorem textToCells_forward_of_ne_zero (s : BitVec 2) (b k : Word) {r : Nat} (hr : r ≠ 0) (j : CellIndex) :
    textToCells (forward s b k r) j =
      sboxLookup s (mixColumns (shuffle (xorCells (textToCells b) (textToCells k))) mixMatrix j) := by
  rw [forward_of_ne_zero s b k hr, textToCells_cellsToText, substitute_apply, textToCells_xor]

theorem textToCells_backward_zero (s : BitVec 2) (b k : Word) (j : CellIndex) :
    textToCells (backward s b k 0) j = sboxInvLookup s (textToCells b j) ^^^ textToCells k j := by
  rw [backward_zero, textToCells_xor, textToCells_cellsToText, xorCells_apply, substituteInv_apply]

theorem textToCells_backward_of_ne_zero (s : BitVec 2) (b k : Word) {r : Nat} (hr : r ≠ 0) (j : CellIndex) :
    textToCells (backward s b k r) j =
      mixColumns (substituteInv s (textToCells b)) mixMatrix shufflePermInv[j] ^^^ textToCells k j := by
  rw [backward_of_ne_zero s b k hr, textToCells_xor, textToCells_cellsToText, xorCells_apply, shuffleInv, gather_apply]

/-- Settles O23: the codec lets each cell of the result be read off the stages of `forward`. -/
theorem forwardDiffusesUnlessRoundZero : Obligations.ForwardDiffusesUnlessRoundZero := by
  unfold Obligations.ForwardDiffusesUnlessRoundZero
  refine ⟨textToCells_forward_zero, fun s b k r j hr => textToCells_forward_of_ne_zero s b k hr j, ?examples⟩
  decide +kernel

/-- Settles O24: the codec lets each cell of the result be read off the stages of `backward`. -/
theorem backwardUndiffusesUnlessRoundZero : Obligations.BackwardUndiffusesUnlessRoundZero := by
  unfold Obligations.BackwardUndiffusesUnlessRoundZero
  refine ⟨textToCells_backward_zero, fun s b k r j hr => textToCells_backward_of_ne_zero s b k hr j, ?examples⟩
  decide +kernel

/-! ### The reflection with a key of its own (R131) -/

/-- The key enters linearly, and it is only un-shuffled. -/
theorem pseudoReflect_xor_key (x a b : Word) :
    pseudoReflect x (a ^^^ b) = pseudoReflect x a ^^^ cellsToText (shuffleInv (textToCells b)) := by
  have hassoc (m c d : Cells) : xorCells m (xorCells c d) = xorCells (xorCells m c) d :=
    funext fun i => (BitVec.xor_assoc (m i) (c i) (d i)).symm
  rw [pseudoReflect, textToCells_xor, hassoc, shuffleInv, gather_xorCells, cellsToText_xorCells]
  rfl

/-- The defect of the reflection as its own inverse: the un-shuffled difference between the key and the mixed key. -/
theorem pseudoReflect_pseudoReflect (x k : Word) :
    pseudoReflect (pseudoReflect x k) k = x ^^^ cellsToText (shuffleInv (textToCells (k ^^^ mixKey k))) := by
  have hkey : mixKey k ^^^ (k ^^^ mixKey k) = k := by rw [BitVec.xor_comm, xor_cancel_right]
  calc pseudoReflect (pseudoReflect x k) k
      = pseudoReflect (pseudoReflect x k) (mixKey k ^^^ (k ^^^ mixKey k)) := by rw [hkey]
    _ = x ^^^ cellsToText (shuffleInv (textToCells (k ^^^ mixKey k))) := by
      rw [pseudoReflect_xor_key, pseudoReflect_pseudoReflect_mixKey]

theorem cellsToText_zero : cellsToText (fun _ => 0) = 0 := by
  rw [← textToCells_zero, cellsToText_textToCells]

theorem shuffleInv_zero : shuffleInv (fun _ => 0) = fun _ => 0 := rfl

/-- Un-shuffling loses nothing: it gives the zero block for the zero block only. -/
theorem cellsToText_shuffleInv_eq_zero_iff (d : Word) : cellsToText (shuffleInv (textToCells d)) = 0 ↔ d = 0 := by
  constructor
  · intro h
    have hcells : shuffleInv (textToCells d) = fun _ => 0 := by
      rw [← textToCells_cellsToText (shuffleInv (textToCells d)), h, textToCells_zero]
    rw [← cellsToText_textToCells d, ← shuffle_shuffleInv (textToCells d), hcells, shuffle_zero, cellsToText_zero]
  · rintro rfl
    rw [textToCells_zero, shuffleInv_zero, cellsToText_zero]

theorem pseudoReflect_involutive_iff (k : Word) :
    (∀ x : Word, pseudoReflect (pseudoReflect x k) k = x) ↔ mixKey k = k := by
  have hdefect : cellsToText (shuffleInv (textToCells (k ^^^ mixKey k))) = 0 ↔ mixKey k = k :=
    (cellsToText_shuffleInv_eq_zero_iff _).trans (BitVec.xor_eq_zero_iff.trans eq_comm)
  rw [← hdefect]
  constructor
  · intro h
    simpa [pseudoReflect_pseudoReflect] using h 0
  · intro h x
    rw [pseudoReflect_pseudoReflect, h]
    exact BitVec.xor_zero

/-- Settles O31: the second reflection meets the key of the first mixed once, so the defect is the difference of the two. -/
theorem pseudoReflectInverseTakesTheMixedKey : Obligations.PseudoReflectInverseTakesTheMixedKey := by
  unfold Obligations.PseudoReflectInverseTakesTheMixedKey
  refine ⟨(pseudoReflect_involutive_iff 0).mpr ?keyless, pseudoReflect_pseudoReflect_mixKey, pseudoReflect_pseudoReflect,
    pseudoReflect_involutive_iff, ?examples⟩
  case keyless | examples => decide +kernel

end Sys2Proof.Machine


/-! The sequence of phases (46_cipher_controller.md sections 1, 2, 4): which phases a command runs, what the running tweak is in
them, and that what they answer is the source's eight steps. -/

namespace Sys2Proof.Machine

/-! ### The phases (R143) -/

theorem mem_roundIndices (n : BitVec 3) (i : Fin 7) : i ∈ roundIndices n ↔ i.val < n.toNat := by
  revert n i
  decide

/-- Settles O15: the rounds among the phases are those of the round indices. -/
theorem roundIndicesAreBelowRounds : Obligations.RoundIndicesAreBelowRounds := by
  unfold Obligations.RoundIndicesAreBelowRounds
  intro n i
  simp [phases, mem_roundIndices]

theorem phases_length (n : BitVec 3) : (phases n).length = 2 * n.toNat + 6 := by
  simp [phases]
  omega

theorem phases_nodup (n : BitVec 3) : (phases n).Nodup := by
  revert n
  decide

/-- Along the phases of each of the eight values of `ROUNDS`, the successor of the last one included. -/
theorem phases_getElem?_succ_of_lt : ∀ n : BitVec 3, ∀ k < (phases n).length,
    (phases n)[k + 1]? = (phases n)[k]?.bind (nextPhase n) := by decide

theorem phases_getElem?_succ (n : BitVec 3) (k : Nat) :
    (phases n)[k + 1]? = (phases n)[k]?.bind (nextPhase n) := by
  obtain hk | hk := lt_or_ge k (phases n).length
  · exact phases_getElem?_succ_of_lt n k hk
  · rw [List.getElem?_eq_none hk, List.getElem?_eq_none (hk.trans (Nat.le_succ k)), Option.bind_none]

/-- Settles O35: the length counts the two rounds of each index; past the last phase there is neither phase nor successor. -/
theorem phasesFollowTheirSuccessors : Obligations.PhasesFollowTheirSuccessors := by
  unfold Obligations.PhasesFollowTheirSuccessors
  exact fun n => ⟨phases_length n, phases_nodup n, rfl, phases_getElem?_succ n⟩

/-! ### The tweak of the centre (R124) -/

theorem phases_takeWhile_ne_s3 (n : BitVec 3) :
    (phases n).takeWhile (· ≠ .s3) = [Phase.s0, Phase.s1] ++ (roundIndices n).map Phase.s2 := by
  have hphases : phases n = ([Phase.s0, Phase.s1] ++ (roundIndices n).map Phase.s2) ++ Phase.s3 ::
      ([Phase.s4, Phase.s5] ++ (roundIndices n).reverse.map Phase.s6 ++ [Phase.s7]) := by
    simp [phases]
  rw [hphases]
  exact takeWhile_ne_append_cons (by simp) _

theorem phases_takeWhile_ne_s5 (n : BitVec 3) :
    (phases n).takeWhile (· ≠ .s5) =
      [Phase.s0, Phase.s1] ++ (roundIndices n).map Phase.s2 ++ [Phase.s3, Phase.s4] := by
  have hphases : phases n = ([Phase.s0, Phase.s1] ++ (roundIndices n).map Phase.s2 ++ [Phase.s3, Phase.s4]) ++
      Phase.s5 :: ((roundIndices n).reverse.map Phase.s6 ++ [Phase.s7]) := by
    simp [phases]
  rw [hphases]
  exact takeWhile_ne_append_cons (by simp) _

theorem tk_before_s3 (q : Request) (w : Work) :
    (runPhases q ((phases q.rounds).takeWhile (· ≠ .s3)) w).tk = forwardUpdateKey^[q.rounds.toNat] q.t := by
  rw [phases_takeWhile_ne_s3]
  simp

theorem tk_before_s5 (q : Request) (w : Work) :
    (runPhases q ((phases q.rounds).takeWhile (· ≠ .s5)) w).tk = forwardUpdateKey^[q.rounds.toNat] q.t := by
  rw [phases_takeWhile_ne_s5]
  simp

/-- The backward rounds take back every update of the forward rounds. -/
theorem tk_after_phases (q : Request) (w : Work) : (runPhases q (phases q.rounds) w).tk = q.t := by
  simp [phases, backwardUpdateKey_iterate_forwardUpdateKey_iterate, -List.map_reverse]

/-- Settles O29: S1 loads the tweak operand and only the rounds step it, so the count of the rounds before a phase decides. -/
theorem tweakSequenceDependsOnTheTweakAlone : Obligations.TweakSequenceDependsOnTheTweakAlone := by
  unfold Obligations.TweakSequenceDependsOnTheTweakAlone
  refine ⟨fun q w i hi => ⟨tk_before_s2 q w hi, tk_after_s6 q w hi⟩,
    fun q w => ⟨tk_before_s3 q w, tk_before_s5 q w, tk_after_phases q w⟩, ?chain⟩
  decide +kernel

/-! ### The response (R138) -/

/-- Settles O36: the simulation of the loops by the rounds, of `sequence_eq_eightSteps`. -/
theorem sequencerRunsTheEightSteps : Obligations.SequencerRunsTheEightSteps := by
  unfold Obligations.SequencerRunsTheEightSteps
  exact sequence_eq_eightSteps

/-- The working registers with another `OUT`. -/
def Work.setOut (v : Word) (w : Work) : Work := { w with out := v }

/-- S0 and S1 write every working register but `OUT`. -/
theorem runPhases_s0_s1_eq_setOut (q : Request) (w w' : Work) :
    runPhases q [.s0, .s1] w = (runPhases q [.s0, .s1] w').setOut w.out := rfl

/-- Before S7 no phase reads or writes `OUT`. -/
theorem runPhase_setOut (q : Request) (w : Work) (v : Word) {p : Phase} (hp : p ≠ .s7) :
    runPhase q (w.setOut v) p = (runPhase q w p).setOut v := by
  cases p with
  | s7 => exact absurd rfl hp
  | s0 | s1 | s2 | s3 | s4 | s5 | s6 => rfl

theorem runPhases_setOut (q : Request) (w : Work) (v : Word) {ps : List Phase} (hps : .s7 ∉ ps) :
    runPhases q ps (w.setOut v) = (runPhases q ps w).setOut v := by
  induction ps generalizing w with
  | nil => rfl
  | cons p ps ih =>
    obtain ⟨hp, htail⟩ := not_or.mp (mt List.mem_cons.mpr hps)
    rw [runPhases_cons, runPhase_setOut q w v (Ne.symm hp), ih _ htail, runPhases_cons]

/-- S7 answers from `IS` and `OB` alone. -/
theorem runPhases_s7_setOut_out (q : Request) (w : Work) (v : Word) :
    (runPhases q [.s7] (w.setOut v)).out = (runPhases q [.s7] w).out := rfl

theorem phases_eq_middle (n : BitVec 3) :
    ∃ middle, phases n = [Phase.s0, Phase.s1] ++ middle ++ [Phase.s7] ∧ Phase.s7 ∉ middle :=
  ⟨(roundIndices n).map Phase.s2 ++ [Phase.s3, Phase.s4, Phase.s5] ++ (roundIndices n).reverse.map Phase.s6,
    by simp [phases], by simp⟩

/-- Settles O37: S0 and S1 leave nothing of the old registers but `OUT`, and S7 overwrites it unread. -/
theorem responseIgnoresOldWorkingRegisters : Obligations.ResponseIgnoresOldWorkingRegisters := by
  unfold Obligations.ResponseIgnoresOldWorkingRegisters
  intro q w w'
  obtain ⟨middle, hphases, hmiddle⟩ := phases_eq_middle q.rounds
  rw [hphases, runPhases_append, runPhases_append, runPhases_append, runPhases_append,
    runPhases_s0_s1_eq_setOut q w w', runPhases_setOut q _ _ hmiddle, runPhases_s7_setOut_out]

/-- Settles O34: the roles by definition, and the source's key evaluated. -/
theorem keyRolesOfBothDirections : Obligations.KeyRolesOfBothDirections := by
  unfold Obligations.KeyRolesOfBothDirections
  refine ⟨fun w0 k0 => ⟨rfl, rfl⟩, ?sourceKey⟩
  decide +kernel

/-! ### The source's vectors (95_test_vectors.md section 1.1) -/

theorem nineVectors_sbox_lt : ∀ c ∈ Source.nineVectors, c.1.toNat < 3 := by simp [Source.nineVectors]

theorem encrypt_nineVectors : ∀ c ∈ Source.nineVectors,
    Source.encrypt c.2.1 c.1 Source.testBlock Source.testTweak Source.testW0 Source.testK0 = c.2.2 := by
  simp only [Source.nineVectors, List.forall_mem_cons]
  refine ⟨?_, ?_, ?_, ?_, ?_, ?_, ?_, ?_, ?_, List.forall_mem_nil _⟩ <;> decide +kernel

/-- `decrypt` inverts `encrypt`, so the vectors of one direction give those of the other. -/
theorem decrypt_nineVectors {c : BitVec 2 × BitVec 3 × Word} (hc : c ∈ Source.nineVectors) :
    Source.decrypt c.2.1 c.1 c.2.2 Source.testTweak Source.testW0 Source.testK0 = Source.testBlock := by
  rw [← encrypt_nineVectors c hc, decrypt_encrypt (nineVectors_sbox_lt c hc)]

/-- Settles O49: the ciphertexts evaluated, the plaintext by inversion. -/
theorem nineSourceVectorsInBothDirections : Obligations.NineSourceVectorsInBothDirections := by
  unfold Obligations.NineSourceVectorsInBothDirections
  exact fun c hc => ⟨responds_enc (encrypt_nineVectors c hc), responds_dec (decrypt_nineVectors hc)⟩

end Sys2Proof.Machine


/-! The step and its runs (10_state.md section 2, 20_memory.md section 5, 60_exceptions.md section 1): what one event does to the
two registers is said once, in `step_takes_event`; the claims about steps and runs follow from it. -/

namespace Sys2Proof.Machine

/-! ### The clamped operands (R141, R142) -/

/-- R141: the clamp is two-sided. -/
theorem clampRounds_toNat (n : Int) : ((clampRounds n).toNat : Int) = max 1 (min 7 n) := by
  obtain hlow | hlow := lt_or_ge n 1
  · have hvalue : (1 : BitVec 3).toNat = 1 := rfl
    rw [clampRounds_of_low hlow, hvalue]
    omega
  · obtain hhigh | hhigh := lt_or_ge 7 n
    · have hvalue : (7 : BitVec 3).toNat = 7 := rfl
      rw [clampRounds_of_high hhigh, hvalue]
      omega
    · rw [clampRounds_of_mem hlow hhigh, BitVec.toNat_ofInt]
      omega

/-- R142: the clamp is two-sided. -/
theorem clampSbox_toNat (n : Int) : ((clampSbox n).toNat : Int) = max 0 (min 2 n) := by
  obtain hlow | hlow := lt_or_ge n 0
  · have hvalue : (0 : BitVec 2).toNat = 0 := rfl
    rw [clampSbox_of_low hlow, hvalue]
    omega
  · obtain hhigh | hhigh := lt_or_ge 2 n
    · have hvalue : (2 : BitVec 2).toNat = 2 := rfl
      rw [clampSbox_of_high hhigh, hvalue]
      omega
    · rw [clampSbox_of_mem hlow hhigh, BitVec.toNat_ofInt]
      omega

theorem one_le_clampRounds (n : Int) : 1 ≤ (clampRounds n).toNat := by
  have hvalue := clampRounds_toNat n
  omega

theorem clampSbox_le_two (n : Int) : (clampSbox n).toNat ≤ 2 := by
  have hvalue := clampSbox_toNat n
  omega

/-- Settles O40: the only field written besides the response is `ROUNDS`, with the clamp of R141. -/
theorem setroundsClampsAndWritesRoundsOnly : Obligations.SetroundsClampsAndWritesRoundsOnly := by
  unfold Obligations.SetroundsClampsAndWritesRoundsOnly
  exact fun n s => ⟨_, exec_setrounds n s, clampRounds_toNat n.toInt, rfl, rfl, rfl⟩

/-- Settles O41: the only field written besides the response is `SBOX`, with the clamp of R142. -/
theorem setsboxClampsAndWritesSboxOnly : Obligations.SetsboxClampsAndWritesSboxOnly := by
  unfold Obligations.SetsboxClampsAndWritesSboxOnly
  exact fun n s => ⟨_, exec_setsbox n s, clampSbox_toNat n.toInt, rfl, rfl, rfl⟩

/-- Settles O50: in each row both clamps give the register the table gives, and the other fields are those of reset. -/
theorem clampingTableRowByRow : Obligations.ClampingTableRowByRow := by
  unfold Obligations.ClampingTableRowByRow
  intro c hc
  have hclamps : clampRounds (signedOperand (BitVec.ofInt 32 c.1)) = c.2.1 ∧
      clampSbox (signedOperand (BitVec.ofInt 32 c.1)) = c.2.2 := by
    revert c
    decide
  obtain ⟨hrounds, hsbox⟩ := hclamps
  rw [exec_setrounds, exec_setsbox, hrounds, hsbox]
  exact ⟨rfl, rfl⟩

/-- Settles O48: the two commands write different registers. -/
theorem configurationOrderDoesNotMatter : Obligations.ConfigurationOrderDoesNotMatter := by
  unfold Obligations.ConfigurationOrderDoesNotMatter
  exact fun n m s => ⟨_, _, _, exec_setrounds n s, exec_setsbox m _, exec_setsbox m s, exec_setrounds n _⟩

/-- Settles O47: a cipher command only responds, and no command reads a response. -/
theorem cipherCommandsDoNotAffectEachOther : Obligations.CipherCommandsDoNotAffectEachOther := by
  unfold Obligations.CipherCommandsDoNotAffectEachOther
  intro i j s hi hj
  obtain ⟨out, hout⟩ := exec_of_isCipher hi s
  obtain ⟨out', hout'⟩ := exec_of_isCipher hj s
  exact ⟨respond out s, respond out' s, hout, hout', (exec_setResponse j s (some out)).trans hout',
    (exec_setResponse i s (some out')).trans hout⟩

/-! ### One step -/

theorem step_of_nil {s : State} (h : s.input = []) : step s = .next (noResponse s) := by
  rw [step, takeEvent_of_nil h]

theorem step_of_command {s : State} {p : Ports} {rest : List HostEvent} (h : s.input = .command p :: rest) :
    step s = exec (decode p) { s with input := rest } := by
  rw [step, takeEvent_of_cons h]

theorem step_of_reset {s : State} {rest : List HostEvent} (h : s.input = .reset :: rest) :
    step s = .next (resetInstance { s with input := rest }) := by
  rw [step, takeEvent_of_cons h]

/-- The one account of a step that takes an event: each register takes what the event writes into it, or keeps its value. -/
theorem step_takes_event {s : State} {e : HostEvent} {rest : List HostEvent} (h : s.input = e :: rest) :
    ∃ t, step s = .next t ∧ t.rounds = (roundsWritten e).getD s.rounds ∧ t.sbox = (sboxWritten e).getD s.sbox ∧
      t.input = rest := by
  cases e with
  | reset => exact ⟨_, step_of_reset h, rfl, rfl, rfl⟩
  | command p =>
    rw [step_of_command h, roundsWritten, sboxWritten]
    cases decode p with
    | enc x t w0 k0 => exact ⟨_, exec_enc x t w0 k0 _, rfl, rfl, rfl⟩
    | dec x t w0 k0 => exact ⟨_, exec_dec x t w0 k0 _, rfl, rfl, rfl⟩
    | setrounds n => exact ⟨_, exec_setrounds n _, rfl, rfl, rfl⟩
    | setsbox n => exact ⟨_, exec_setsbox n _, rfl, rfl, rfl⟩

/-- Only reset and SETROUNDS write `ROUNDS`. -/
theorem roundsWritten_eq_some {e : HostEvent} {v : BitVec 3} (h : roundsWritten e = some v) :
    (e = .reset ∧ v = Config.roundsReset) ∨
      ∃ p n, e = .command p ∧ decode p = .setrounds n ∧ v = clampRounds (signedOperand n) := by
  cases e with
  | reset => exact .inl ⟨rfl, (Option.some.inj h).symm⟩
  | command p =>
    rw [roundsWritten] at h
    cases hp : decode p with
    | setrounds n =>
      rw [hp] at h
      exact .inr ⟨p, n, rfl, hp, (Option.some.inj h).symm⟩
    | enc x t w0 k0 | dec x t w0 k0 | setsbox n => simp [hp] at h

/-- Only reset and SETSBOX write `SBOX`. -/
theorem sboxWritten_eq_some {e : HostEvent} {v : BitVec 2} (h : sboxWritten e = some v) :
    (e = .reset ∧ v = Config.sboxReset) ∨
      ∃ p n, e = .command p ∧ decode p = .setsbox n ∧ v = clampSbox (signedOperand n) := by
  cases e with
  | reset => exact .inl ⟨rfl, (Option.some.inj h).symm⟩
  | command p =>
    rw [sboxWritten] at h
    cases hp : decode p with
    | setsbox n =>
      rw [hp] at h
      exact .inr ⟨p, n, rfl, hp, (Option.some.inj h).symm⟩
    | enc x t w0 k0 | dec x t w0 k0 | setrounds n => simp [hp] at h

theorem one_le_of_roundsWritten {e : HostEvent} {v : BitVec 3} (h : roundsWritten e = some v) : 1 ≤ v.toNat := by
  obtain ⟨-, rfl⟩ | ⟨-, n, -, -, rfl⟩ := roundsWritten_eq_some h
  · decide
  · exact one_le_clampRounds _

theorem le_two_of_sboxWritten {e : HostEvent} {v : BitVec 2} (h : sboxWritten e = some v) : v.toNat ≤ 2 := by
  obtain ⟨-, rfl⟩ | ⟨-, n, -, -, rfl⟩ := sboxWritten_eq_some h
  · decide
  · exact clampSbox_le_two _

theorem step_completes (s : State) : ∃ t, step s = .next t := by
  cases hinput : s.input with
  | nil => exact ⟨_, step_of_nil hinput⟩
  | cons e rest =>
    obtain ⟨t, hstep, -, -, -⟩ := step_takes_event hinput
    exact ⟨t, hstep⟩

/-- Everything a step can do to the registers: idle, it keeps both; otherwise it takes the event at the head of the input. -/
theorem step_inversion {s t : State} (hstep : step s = .next t) :
    (t.rounds = s.rounds ∧ t.sbox = s.sbox) ∨
      ∃ e rest, s.input = e :: rest ∧ t.rounds = (roundsWritten e).getD s.rounds ∧
        t.sbox = (sboxWritten e).getD s.sbox := by
  cases hinput : s.input with
  | nil =>
    obtain rfl : noResponse s = t := Host.Outcome.next.inj ((step_of_nil hinput).symm.trans hstep)
    exact .inl ⟨rfl, rfl⟩
  | cons e rest =>
    obtain ⟨t', hstep', hrounds, hsbox, -⟩ := step_takes_event hinput
    obtain rfl : t' = t := Host.Outcome.next.inj (hstep'.symm.trans hstep)
    exact .inr ⟨e, rest, rfl, hrounds, hsbox⟩

/-! ### The legal values (R10, R11) -/

theorem one_le_roundsWritten_getD (e : HostEvent) {v : BitVec 3} (hv : 1 ≤ v.toNat) :
    1 ≤ ((roundsWritten e).getD v).toNat := by
  cases hwritten : roundsWritten e with
  | none => exact hv
  | some w => exact one_le_of_roundsWritten hwritten

theorem sboxWritten_getD_le_two (e : HostEvent) {v : BitVec 2} (hv : v.toNat ≤ 2) :
    ((sboxWritten e).getD v).toNat ≤ 2 := by
  cases hwritten : sboxWritten e with
  | none => exact hv
  | some w => exact le_two_of_sboxWritten hwritten

theorem step_legal {s t : State} (hs : Legal s) (hstep : step s = .next t) : Legal t := by
  obtain ⟨hrounds, hsbox⟩ := hs
  obtain ⟨hr, hb⟩ | ⟨e, rest, -, hr, hb⟩ := step_inversion hstep
  · exact ⟨hr ▸ hrounds, hb ▸ hsbox⟩
  · exact ⟨hr ▸ one_le_roundsWritten_getD e hrounds, hb ▸ sboxWritten_getD_le_two e hsbox⟩

/-- Settles O3: a register keeps its legal value or takes a written one, and reset and the clamps write legal values only. -/
theorem everyStepKeepsTheStateLegal : Obligations.EveryStepKeepsTheStateLegal := by
  unfold Obligations.EveryStepKeepsTheStateLegal
  exact ⟨fun s hs => (step_completes s).imp fun _ hstep => ⟨hstep, step_legal hs hstep⟩,
    fun s n => ⟨_, exec_setrounds n s, one_le_clampRounds _⟩, fun s n => ⟨_, exec_setsbox n s, clampSbox_le_two _⟩⟩

/-- Settles O2: both registers are at their defaults. -/
theorem resetStateIsLegal : Obligations.ResetStateIsLegal := by
  unfold Obligations.ResetStateIsLegal
  decide

/-- Settles O1: reset loads the defaults, under which the source's vector for `SBOX` 2 and `ROUNDS` 5 is the answer. -/
theorem resetLeavesTheDefaults : Obligations.ResetLeavesTheDefaults := by
  unfold Obligations.ResetLeavesTheDefaults
  exact ⟨rfl, fun s rest => step_of_reset rfl,
    responds_enc (encrypt_nineVectors (2, 5, 0xC003B93999B33765) (by decide))⟩

/-- Settles O4: the step takes the command from the head of the input, where `withFetchWord` places it. -/
theorem stepRunsTheDecodedCommand : Obligations.StepRunsTheDecodedCommand := by
  unfold Obligations.StepRunsTheDecodedCommand
  exact ⟨fun s p rest => step_of_command rfl, fun s nbits w => step_of_command rfl⟩

/-- Settles O5: without an event only the response is overwritten. -/
theorem stepWithoutAnEventKeepsTheRegisters : Obligations.StepWithoutAnEventKeepsTheRegisters := by
  unfold Obligations.StepWithoutAnEventKeepsTheRegisters
  exact fun s => step_of_nil rfl

/-! ### The frames (R12) -/

theorem exists_eq_some_of_getD_ne {α : Type} {o : Option α} {a : α} (h : o.getD a ≠ a) : ∃ v, o = some v := by
  cases o with
  | none => exact absurd rfl h
  | some v => exact ⟨v, rfl⟩

theorem step_rounds_change {s t : State} (hstep : step s = .next t) (hchange : t.rounds ≠ s.rounds) :
    ∃ e rest, s.input = e :: rest ∧ (e = .reset ∨ ∃ p n, e = .command p ∧ decode p = .setrounds n) := by
  obtain ⟨hr, -⟩ | ⟨e, rest, hinput, hr, -⟩ := step_inversion hstep
  · exact absurd hr hchange
  · obtain ⟨v, hv⟩ := exists_eq_some_of_getD_ne (hr ▸ hchange)
    obtain ⟨he, -⟩ | ⟨p, n, he, hp, -⟩ := roundsWritten_eq_some hv
    · exact ⟨e, rest, hinput, .inl he⟩
    · exact ⟨e, rest, hinput, .inr ⟨p, n, he, hp⟩⟩

theorem step_sbox_change {s t : State} (hstep : step s = .next t) (hchange : t.sbox ≠ s.sbox) :
    ∃ e rest, s.input = e :: rest ∧ (e = .reset ∨ ∃ p n, e = .command p ∧ decode p = .setsbox n) := by
  obtain ⟨-, hb⟩ | ⟨e, rest, hinput, -, hb⟩ := step_inversion hstep
  · exact absurd hb hchange
  · obtain ⟨v, hv⟩ := exists_eq_some_of_getD_ne (hb ▸ hchange)
    obtain ⟨he, -⟩ | ⟨p, n, he, hp, -⟩ := sboxWritten_eq_some hv
    · exact ⟨e, rest, hinput, .inl he⟩
    · exact ⟨e, rest, hinput, .inr ⟨p, n, he, hp⟩⟩

/-- Settles O42: a register that changes over a step holds what the event taken wrote, and only reset and its own command write
it. -/
theorem registersChangeOnlyByTheirCommandOrReset : Obligations.RegistersChangeOnlyByTheirCommandOrReset := by
  unfold Obligations.RegistersChangeOnlyByTheirCommandOrReset
  exact ⟨fun x t w0 k0 s => ⟨_, exec_enc x t w0 k0 s, rfl, rfl, rfl⟩,
    fun x t w0 k0 s => ⟨_, exec_dec x t w0 k0 s, rfl, rfl, rfl⟩,
    fun n s => ⟨_, exec_setrounds n s, rfl, rfl⟩, fun n s => ⟨_, exec_setsbox n s, rfl, rfl⟩,
    fun _ _ hstep => ⟨step_rounds_change hstep, step_sbox_change hstep⟩⟩

/-! ### Runs -/

theorem run_succ_of_step {s t : State} (h : step s = .next t) (k : Nat) :
    Host.Core.run core (k + 1) s = Host.Core.run core k t := by
  simp only [Host.Core.run, show core.step s = .next t from h]

theorem run_completes (k : Nat) (s : State) : ∃ t, Host.Core.run core k s = .next t := by
  induction k generalizing s with
  | zero => exact ⟨s, rfl⟩
  | succ k ih =>
    obtain ⟨t, hstep⟩ := step_completes s
    rw [run_succ_of_step hstep]
    exact ih t

/-- Settles O6: every command and every step completes, hence every run, by induction on its steps. -/
theorem nothingEverStops : Obligations.NothingEverStops := by
  unfold Obligations.NothingEverStops
  exact ⟨(fun f => nomatch f), exec_completes, run_completes⟩

theorem run_add_of_run {k : Nat} {s t : State} (h : Host.Core.run core k s = .next t) (l : Nat) :
    Host.Core.run core (k + l) s = Host.Core.run core l t := by
  induction k generalizing s with
  | zero =>
    have heq : s = t := Host.Outcome.next.inj h
    rw [Nat.zero_add, heq]
  | succ k ih =>
    obtain ⟨u, hstep⟩ := step_completes s
    rw [run_succ_of_step hstep] at h
    rw [Nat.succ_add, run_succ_of_step hstep, ih h]

/-! ### The latest configuration (R38) -/

/-- Looking for the latest write in a list: the first event matters only if no later one writes. -/
theorem findSome?_reverse_cons_getD {α β : Type} (f : α → Option β) (a : α) (l : List α) (b : β) :
    ((a :: l).reverse.findSome? f).getD b = (l.reverse.findSome? f).getD ((f a).getD b) := by
  rw [List.reverse_cons, List.findSome?_append]
  cases l.reverse.findSome? f <;> simp

theorem latestRounds_cons (e : HostEvent) (events : List HostEvent) (v : BitVec 3) :
    latestRounds (e :: events) v = latestRounds events ((roundsWritten e).getD v) :=
  findSome?_reverse_cons_getD roundsWritten e events v

theorem latestSbox_cons (e : HostEvent) (events : List HostEvent) (v : BitVec 2) :
    latestSbox (e :: events) v = latestSbox events ((sboxWritten e).getD v) :=
  findSome?_reverse_cons_getD sboxWritten e events v

/-- The events of a list, taken one by one, leave each register at its latest value, and the later events untouched. -/
theorem run_events {events rest : List HostEvent} {s : State} (h : s.input = events ++ rest) :
    ∃ t, Host.Core.run core events.length s = .next t ∧ t.rounds = latestRounds events s.rounds ∧
      t.sbox = latestSbox events s.sbox ∧ t.input = rest := by
  induction events generalizing s with
  | nil => exact ⟨s, rfl, rfl, rfl, h⟩
  | cons e events ih =>
    obtain ⟨u, hstep, hrounds, hsbox, hinput⟩ := step_takes_event h
    rw [List.length_cons, run_succ_of_step hstep, latestRounds_cons, latestSbox_cons, ← hrounds, ← hsbox]
    exact ih hinput

/-- The command that follows the events of a list is executed in a state whose registers hold the latest values. -/
theorem run_events_command {events : List HostEvent} {i : Instr} {s : State}
    (h : s.input = events ++ [.command (encode i)]) :
    ∃ t, t.rounds = latestRounds events s.rounds ∧ t.sbox = latestSbox events s.sbox ∧
      Host.Core.run core (events.length + 1) s = exec i t := by
  obtain ⟨t, hrun, hrounds, hsbox, hinput⟩ := run_events h
  obtain ⟨u, hu⟩ := exec_completes i { t with input := [] }
  have hstep : step t = .next u := by rw [step_of_command hinput, decode_encode, hu]
  refine ⟨{ t with input := [] }, hrounds, hsbox, ?_⟩
  rw [run_add_of_run hrun, run_succ_of_step hstep, hu]
  rfl

/-- Settles O46: by induction over the events; the cipher command after them finds the registers as they leave them. -/
theorem commandsUseTheLatestConfiguration : Obligations.CommandsUseTheLatestConfiguration := by
  unfold Obligations.CommandsUseTheLatestConfiguration
  intro events s
  refine ⟨fun rest => run_events rfl, fun x t w0 k0 => ?enc, fun x t w0 k0 => ?dec⟩
  case enc =>
    obtain ⟨u, hrounds, hsbox, hrun⟩ := run_events_command (i := .enc x t w0 k0) (s := { s with input := _ }) rfl
    rw [hrun, exec_enc_eq_encrypt, hrounds, hsbox]
    exact ⟨_, rfl, rfl⟩
  case dec =>
    obtain ⟨u, hrounds, hsbox, hrun⟩ := run_events_command (i := .dec x t w0 k0) (s := { s with input := _ }) rfl
    rw [hrun, exec_dec_eq_decrypt, hrounds, hsbox]
    exact ⟨_, rfl, rfl⟩

end Sys2Proof.Machine
